-- ==== Sys2Proof/Word.lean ====
section
/-! DEFINITION. The words of the block: the byte (spec R13), the 4-bit mode (R22), the 16-bit value (R23), the 13-byte text (R24). -/

namespace Sys2Proof

/-- A byte: an unsigned 8-bit value (R13). -/
abbrev Byte := BitVec 8

/-- CurrentMode, 4 bits (R22). -/
abbrev ModeNum := BitVec 4

/-- ReportedValue, 16 bits, two's complement (R23). -/
abbrev Value := BitVec 16

/-- The TextBuffer and its staging copy: 13 bytes, index 0..12 (R24, R44). -/
abbrev Text := Vector Byte 13

end Sys2Proof
end

