-- ==== Sys2Proof/Config.lean ====
section
/-! DEFINITION. What is fixed for one device: its profile (R2, R27), the receive FIFO's depth (R9, R38), the handshake ROM
HS_SEQ (R150 to R158), the mode table it is made from (R151, R155, R156), and the one free value, the count a transport answers (R64, U3). -/

namespace Sys2Proof

/-- The two device profiles (R2); no third one exists (U19). -/
inductive Profile where
  | generic
  | ev3Compatible
  deriving DecidableEq, Repr

/-- The delay after a ROM entry, 1 to 18 ms (R158): `g` stands for `g + 1` milliseconds. -/
abbrev Gap := Fin 18

/-- One frame of the handshake ROM and the gap after it. The bytes sent are `build_frame header (first :: more)`, so every
value of this type is a valid F1 frame of at least three bytes (R157). -/
structure RomFrame where
  header : Byte
  first  : Byte
  more   : List Byte
  gap    : Gap
  deriving DecidableEq, Repr

/-- The seven frames that advertise one mode, in the order of R154. -/
structure ModeGroup where
  name    : RomFrame
  raw     : RomFrame
  percent : RomFrame
  si      : RomFrame
  symbol  : RomFrame
  mapping : RomFrame
  format  : RomFrame
  deriving DecidableEq, Repr

/-- The handshake ROM `HS_SEQ[profile]`: SYNC and its gap, the four identification frames (R153), one group for each
advertised mode (R154), and the ACK byte, which has nothing to choose (R152). A list of entries of another shape is no value
of this type: U1 refuses it as a configuration (see `Machine.romOfEntries?`). -/
structure Rom where
  syncGap : Gap
  type    : RomFrame
  modes   : RomFrame
  speed   : RomFrame
  version : RomFrame
  groups  : List ModeGroup
  deriving DecidableEq, Repr

/-- The four synthetic array modes that the Generic profile advertises (R155). -/
inductive ArrayMode where
  | int8Array
  | int16Array
  | int32Array
  | floatArray
  deriving DecidableEq, Repr

/-- The modes a profile advertises, each as its group of frames: what the advertisement builder makes the mode groups of
`HS_SEQ[profile]` from (R151). Generic: the synthetic array modes, in an order the spec leaves open, and the domain-specific modes
(R155). Ev3Compatible: its own mode table, the group of mode `n` at place `n` (R156). -/
inductive ModeTable where
  | generic (arrays : List (ArrayMode × ModeGroup)) (domain : List ModeGroup)
  | ev3Compatible (byNumber : List ModeGroup)
  deriving DecidableEq, Repr

/-- What is constant for a device (R27, R88): no event writes it. `RX_DEPTH` is `rxSpare + 1`, so at least 1 (R9). -/
structure Config where
  profile : Profile
  rxSpare : Nat
  rom     : Rom
  deriving DecidableEq, Repr

/-- `RX_DEPTH`, the capacity of the receive FIFO (R9, R38). -/
abbrev Config.rxDepth (c : Config) : Nat := c.rxSpare + 1

/-- The count a transport answers to a `TxWrite` that no given answer stands ready for: a free draw (R64, U3), applied to the
counter of such draws. It has no body, so nothing rests on its value; its user limits it to `0..len`. -/
opaque Config.freeTxCount : Nat → Nat

end Sys2Proof
end

