-- ==== Sys2Proof/Machine/Params.lean ====
section
/-! DEFINITION. The implementation parameters of R7 (by profile) and R8, R9 (common), the named constants of the rules. -/

namespace Sys2Proof.Machine

/-- The two baud rates of the line (R31). -/
inductive Baud where
  | b2400
  | b115200
  deriving DecidableEq, Repr

/-- The rate in bits per second (R31). -/
def Baud.rate : Baud → Nat
  | .b2400 => 2400
  | .b115200 => 115200

/-- `INIT_BAUD` (R7). -/
def initBaud : Profile → Baud
  | .generic => .b2400
  | .ev3Compatible => .b115200

/-- `FINAL_BAUD` (R7), the same for both profiles. -/
def finalBaud : Baud := .b115200

/-- `BAUD_SWITCH`: second pulse and reopening after the ACK (R7). -/
def baudSwitch : Profile → Bool
  | .generic => true
  | .ev3Compatible => false

/-- `PULSE1_MS`, nominal (R7, R172). -/
def pulse1Ms : Profile → Nat
  | .generic => 500
  | .ev3Compatible => 410

/-- `PULSE2_MS`, nominal; only the Generic profile reads it (R7, R172). -/
def pulse2Ms : Nat := 10

/-- `WD_MARKERS`: the accepted WRITE-DATA marker pairs (R7). -/
def wdMarkers : Profile → List (Byte × Byte)
  | .generic => [(0x00, 0xB9)]
  | .ev3Compatible => [(0x00, 0xB9), (0x01, 0xB8)]

/-- `COMBO_LEN`: data bytes of a 0x4C message (R7). -/
def comboLen : Profile → Nat
  | .generic => 1
  | .ev3Compatible => 2

/-- `TX_LEN`: bytes of the outbound unit (R7). -/
def txLen : Profile → Nat
  | .generic => 3
  | .ev3Compatible => 7

/-- The SYNC byte (R8). -/
def syncByte : Byte := 0x00

/-- The ACK byte (R8). -/
def ackByte : Byte := 0x04

/-- `ACK_POLL_MS` (R8). -/
def ackPollMs : Nat := 5

/-- `ACK_POLLS` = `ACK_TIMEOUT_MS / ACK_POLL_MS` (R8, R9). -/
def ackPolls : Nat := 400

/-- `SPACE` (R26). -/
def spaceByte : Byte := 0x20

/-- `SPACES13` (R26). -/
def spaces13 : Text := Vector.replicate 13 spaceByte

/-- Milliseconds of a gap (R158): 1 to 18. -/
def gapMs (g : Gap) : Nat := g.val + 1

end Sys2Proof.Machine
end

