-- ==== Sys2Proof/Machine/Names.lean ====
section
/-! DEFINITION. The named sets of the block's state and outputs: link states (R21), line modes (R30), sequencer steps (R34),
parser phases (R39), events (R12), diagnostic events (R302), replies of the accessors and of the codec. -/

namespace Sys2Proof.Machine

/-- LinkState (R21). The encoding 3 is no value of the type (U15). -/
inductive Link where
  | disconnected
  | handshaking
  | connected
  deriving DecidableEq, Repr

/-- What drives the serial line (R30). -/
inductive Line where
  | released
  | gpioLow
  | gpioHigh
  | uart
  deriving DecidableEq, Repr

/-- Handshake sequencer position (R34). `send` is the transient `HS_SEND`: it stands only inside an event. -/
inductive HsStep where
  | idle
  | pulse1
  | send
  | gap
  | ackWait
  | pulse2
  deriving DecidableEq, Repr

/-- Parser phase: what the next byte is (R39). -/
inductive Phase where
  | idle
  | selM
  | selCk
  | wdM0
  | wdM1
  | wdSm
  | wdPay
  | wdCk
  | cbPay
  | cbCk
  deriving DecidableEq, Repr

/-- The events of R12 that come from outside the engine, one step each. `TxWrite` is the engine's own; its answer stands in
`State.txAnswers`. -/
inductive Event where
  | connect
  | tick
  | setValue (v : Int)
  | getMode
  | isConnected
  | getText
  | ms
  | rx (b : Byte)
  | reset
  deriving DecidableEq, Repr

/-- The diagnostic events of R302, with their arguments. -/
inductive Diag where
  | droppedSelectChecksum (m : Byte)
  | droppedSelectRange (m : Byte)
  | droppedMarkerMismatch (m0 m1 : Byte)
  | droppedWriteChecksum (sm : Byte)
  | droppedComboChecksum
  | unknown (b : Byte)
  | truncated (ph : Phase)
  | ackWaitDiscard (b : Byte)
  | handshakeTimeout
  | handshakeWriteFail (romIndex count : Nat)
  | linkLost (count : Nat)
  | selected (m : Byte)
  | writeData (wmode length : Nat)
  | comboAccepted (payload : List Byte)
  | connectDone (ok : Bool)
  deriving DecidableEq, Repr

/-- The error classes of R303 to R305; R302 writes `none` where there is no error. -/
inductive DiagClass where
  | transient
  | handshakeFailure
  | linkLoss
  | noError
  deriving DecidableEq, Repr

/-- One `TxWrite`: the baud rate in force, the bytes offered, the count the transport answered (R64, R65, R76). -/
structure TxRecord where
  baud    : Baud
  offered : List Byte
  count   : Nat
  deriving DecidableEq, Repr

/-- What the handshake ROM holds at an index: the slots of R152 to R154. -/
inductive RomSlot where
  | sync
  | type
  | modes
  | speed
  | version
  | infoName
  | infoRaw
  | infoPct
  | infoSi
  | infoSymbol
  | infoMapping
  | infoFormat
  | ack
  deriving DecidableEq, Repr

/-- What a read accessor (R283 to R285) or a codec function (R130 to R132) returned. -/
inductive Reply where
  | mode (m : ModeNum)
  | connected (c : Bool)
  | text (t : Text)
  | byte (b : Byte)
  | bytes (bs : List Byte)
  | verdict (ok : Bool)
  deriving DecidableEq, Repr

end Sys2Proof.Machine
end

