-- ==== Sys2Proof/Machine/Codec.lean ====
section
/-! DEFINITION. The checksum and framing codec (40_codec.md): three pure functions. -/

namespace Sys2Proof.Machine

/-- `checksum(bytes)`: 0xFF folded by exclusive or with every byte (R130). -/
def checksum (bytes : List Byte) : Byte :=
  bytes.foldl (fun acc b => acc ^^^ b) 0xFF

/-- `build_frame(header, payload)`: header, payload, checksum of both (R131). -/
def buildFrame (header : Byte) (payload : List Byte) : List Byte :=
  (header :: payload) ++ [checksum (header :: payload)]

/-- `verify_frame(received)`: the last byte is the checksum of all bytes before it; false of the empty string (R132). -/
def verifyFrame (received : List Byte) : Bool :=
  match received.getLast? with
  | none => false
  | some c => checksum received.dropLast == c

end Sys2Proof.Machine
end

