-- ==== Sys2Proof/Machine/Operands.lean ====
section
/-! DEFINITION. Operand assembly: the bit fields of header and size/mode bytes (R94, R99), the outbound header (R100) and value
bytes (R101, R102), the operand of `set_value` (R23). -/

namespace Sys2Proof.Machine

/-- The length code, bits 5:3 of a header or size/mode byte (R94, R99). -/
def lengthCode (b : Byte) : Nat := ((b >>> 3) &&& 0b111).toNat

/-- The declared payload length `2^((b >> 3) & 0b111)` (R99). -/
def declaredLength (b : Byte) : Nat := 2 ^ lengthCode b

/-- Bits 7:6 of a header byte, the message category (R94); no rule decodes it. -/
def category (b : Byte) : BitVec 2 := b.extractLsb' 6 2

/-- Bits 2:0 of a header or size/mode byte (R94, R99). -/
def lowField (b : Byte) : BitVec 3 := b.extractLsb' 0 3

/-- `wmode = (sm & 0b111) + (8 if bank else 0)` (R99). -/
def wmode (sm : Byte) (bank : Bool) : Nat := (sm &&& 0b111).toNat + (if bank then 8 else 0)

/-- `hdr = 0xC8 | zext_8(mode)` (R100, R254). -/
def ev3Header (mode : ModeNum) : Byte := 0xC8 ||| mode.setWidth 8

/-- The header of a `DATA_EV3` row with mode bits `k`: `11001kkk` (opcode table, R256). -/
def ev3HeaderOf (k : BitVec 3) : Byte := 0xC8 ||| k.setWidth 8

/-- The mode bits the EV3 header carries: `mode[2:0]`, bit 3 is absorbed (R256). -/
def ev3ModeBits (mode : ModeNum) : BitVec 3 := mode.extractLsb' 0 3

/-- `v[7:0]` (R101, R102). -/
def lowByte (v : Value) : Byte := v.extractLsb' 0 8

/-- `v[15:8]` (R101). -/
def highByte (v : Value) : Byte := v.extractLsb' 8 8

/-- `v[15:0]` of the integer operand of `set_value` (R23, R282). -/
def valueOf (v : Int) : Value := BitVec.ofInt 16 v

/-- The prefix frame that opens a WRITE-DATA message and the EV3 unit: `46 m0 ck` (R97). -/
def prefixFrame (m0 : Byte) : List Byte := buildFrame 0x46 [m0]

/-- The Generic outbound unit `build_frame(0xC0, [d])` (R252). -/
def genericUnit (d : Byte) : List Byte := buildFrame 0xC0 [d]

/-- The EV3 outbound unit: prefix frame of bank 0, then the data frame (R254). -/
def ev3Unit (header lo hi : Byte) : List Byte := prefixFrame 0x00 ++ buildFrame header [lo, hi]

/-- `(p ++ SPACES13)[0 .. 13]`: a payload cut or padded to the TextBuffer (R225, R240). -/
def padText (p : List Byte) : Text := Vector.ofFn (fun i => (p[i.val]?).getD spaceByte)

end Sys2Proof.Machine
end

