-- ==== Sys2Proof/Machine/Flags.lean ====
section
/-! DEFINITION. The conditions the rules test, and the codes of the diagnostic events. The block has no flag register (R32). -/

namespace Sys2Proof.Machine

/-- The 2-bit encoding of LinkState as a hardware register (R21). -/
def Link.code : Link → BitVec 2
  | .disconnected => 0
  | .handshaking => 1
  | .connected => 2

/-- The flag `connected`: recomputed at every read (R25). -/
def isConnectedFlag (l : Link) : Bool := l == .connected

/-- The marker pair is one the profile accepts (R220). -/
def markersAccepted (p : Profile) (m0 m1 : Byte) : Bool := (wdMarkers p).contains (m0, m1)

/-- The marker pair of the second bank: `bank` is true when `m0 = 0x01` (R42, R220). -/
def bankOf (m0 : Byte) : Bool := m0 == 0x01

/-- The SELECT mode byte is in the range of CurrentMode (R216). -/
def modeInRange (m : Byte) : Bool := m.toNat ≤ 15

/-- A leading byte of steady state that is not `UNKNOWN` (R103). -/
def recognisedLeading (b : Byte) : Bool :=
  b == 0x00 || b == 0x02 || b == 0x43 || b == 0x46 || b == 0x4C

/-- A `TxWrite` failed: fewer bytes written than offered (R64). -/
def shortWrite (n len : Nat) : Bool := n < len

/-- The one-byte code of a diagnostic event (R302). -/
def Diag.code : Diag → Byte
  | .droppedSelectChecksum _ => 0x01
  | .droppedSelectRange _ => 0x02
  | .droppedMarkerMismatch _ _ => 0x03
  | .droppedWriteChecksum _ => 0x04
  | .droppedComboChecksum => 0x05
  | .unknown _ => 0x06
  | .truncated _ => 0x07
  | .ackWaitDiscard _ => 0x08
  | .handshakeTimeout => 0x10
  | .handshakeWriteFail _ _ => 0x11
  | .linkLost _ => 0x12
  | .selected _ => 0x20
  | .writeData _ _ => 0x21
  | .comboAccepted _ => 0x22
  | .connectDone _ => 0x23

/-- The class of a diagnostic event (R302 to R306). `AckWaitDiscard` and `ConnectDone` are no errors. -/
def Diag.cls : Diag → DiagClass
  | .droppedSelectChecksum _ => .transient
  | .droppedSelectRange _ => .transient
  | .droppedMarkerMismatch _ _ => .transient
  | .droppedWriteChecksum _ => .transient
  | .droppedComboChecksum => .transient
  | .unknown _ => .transient
  | .truncated _ => .transient
  | .ackWaitDiscard _ => .noError
  | .handshakeTimeout => .handshakeFailure
  | .handshakeWriteFail _ _ => .linkLoss
  | .linkLost _ => .linkLoss
  | .selected _ => .noError
  | .writeData _ _ => .noError
  | .comboAccepted _ => .noError
  | .connectDone _ => .noError

end Sys2Proof.Machine
end

