-- ==== Sys2Proof/Syntax.lean ====
section
/-! DEFINITION. The instructions: one constructor per row of spec/opcode_table.json. The rows are messages in both directions,
host operations and codec functions (30_encoding.md, introduction). -/

namespace Sys2Proof

/-- The data frame of an inbound WRITE-DATA after an accepted prefix: size/mode byte, payload, checksum byte as received (R98). -/
structure DataFrame where
  sizeMode : Byte
  payload  : List Byte
  ck       : Byte
  deriving DecidableEq, Repr

/-- One constructor per row of the opcode table. A checksum byte the hub sends is an operand (it may be wrong); in the frames of
the handshake ROM it is not, because the ROM's frames are valid by R157. -/
inductive Instr where
  /-- `NOP0`, byte 00 (R213). -/
  | nop0
  /-- `KEEPALIVE`, byte 02 (R213). -/
  | keepalive
  /-- `SELECT`, 43 m ck (R214 to R217). -/
  | select (m ck : Byte)
  /-- `WRITE_DATA`, 46 m0 m1 and, if the profile accepts the markers, a data frame (R218 to R227, R108). -/
  | writeData (m0 m1 : Byte) (data : Option DataFrame)
  /-- `COMBO`, 4C, COMBO_LEN data bytes, ck (R228 to R230). -/
  | combo (data : List Byte) (ck : Byte)
  /-- `UNKNOWN`, any other leading byte (R231). -/
  | unknown (b : Byte)
  /-- `ACK_ECHO`, 04 read by a poll of the ACK wait (R186, R189). -/
  | ackEcho
  /-- `ACKWAIT_DISCARD`, any other byte read by such a poll (R187). -/
  | ackwaitDiscard (b : Byte)
  /-- `SYNC`, ROM entry 0 (R152). -/
  | sync
  /-- `TYPE`, ROM entry 1 (R153). -/
  | type (header : Byte) (payload : List Byte)
  /-- `MODES`, ROM entry 2 (R153). -/
  | modes (header : Byte) (payload : List Byte)
  /-- `SPEED`, ROM entry 3 (R153). -/
  | speed (header : Byte) (payload : List Byte)
  /-- `VERSION`, ROM entry 4 (R153). -/
  | version (header : Byte) (payload : List Byte)
  /-- `INFO_NAME`, position 0 of a mode's group (R154). -/
  | infoName (header : Byte) (payload : List Byte)
  /-- `INFO_RAW`, position 1 (R154). -/
  | infoRaw (header : Byte) (payload : List Byte)
  /-- `INFO_PCT`, position 2 (R154). -/
  | infoPct (header : Byte) (payload : List Byte)
  /-- `INFO_SI`, position 3 (R154). -/
  | infoSi (header : Byte) (payload : List Byte)
  /-- `INFO_SYMBOL`, position 4 (R154). -/
  | infoSymbol (header : Byte) (payload : List Byte)
  /-- `INFO_MAPPING`, position 5 (R154). -/
  | infoMapping (header : Byte) (payload : List Byte)
  /-- `INFO_FORMAT`, position 6 (R154). -/
  | infoFormat (header : Byte) (payload : List Byte)
  /-- `ACK`, the last ROM entry (R152). -/
  | ack
  /-- `DATA_GENERIC`, C0 d ck (R252). -/
  | dataGeneric (d ck : Byte)
  /-- `DATA_EV3`, 46 00 B9 (C8 | k) lo hi ck (R254); bit 3 of the mode is absorbed by the header (R256). -/
  | dataEv3 (k : BitVec 3) (lo hi ck : Byte)
  /-- `connect` (R276). -/
  | connect
  /-- `tick` (R280). -/
  | tick
  /-- `set_value(v)` (R282). -/
  | setValue (v : Int)
  /-- `get_mode` (R283). -/
  | getMode
  /-- `is_connected` (R284). -/
  | isConnected
  /-- `get_text` (R285). -/
  | getText
  /-- `ms` (R171). -/
  | ms
  /-- `rx(b)` (R62). -/
  | rx (b : Byte)
  /-- `reset` (R340). -/
  | reset
  /-- `checksum(bytes)` (R130). -/
  | checksum (bytes : List Byte)
  /-- `build_frame(header, payload)` (R131). -/
  | buildFrame (header : Byte) (payload : List Byte)
  /-- `verify_frame(received)` (R132). -/
  | verifyFrame (received : List Byte)
  deriving DecidableEq, Repr

end Sys2Proof
end

