-- ==== Sys2Proof/WellFormed.lean ====
section
/-! DEFINITION. Which instruction terms are messages the block can meet, by profile: payload lengths (R99, R113), marker pairs
(R108), default rows (R103, R104), frames of the ROM (R157), checksums of the engine's own frames (R133). -/

namespace Sys2Proof
open Machine

/-- A term is well formed for a profile when its fields are those the encoding admits. Host operations and codec functions have
no encoding and take every operand. -/
def wellFormed (p : Profile) : Instr → Bool
  | .nop0 => true
  | .keepalive => true
  | .select _ _ => true
  | .writeData m0 m1 none => !markersAccepted p m0 m1
  | .writeData m0 m1 (some d) => markersAccepted p m0 m1 && d.payload.length == declaredLength d.sizeMode
  | .combo data _ => data.length == comboLen p
  | .unknown b => !recognisedLeading b
  | .ackEcho => true
  | .ackwaitDiscard b => b != ackByte
  | .sync => true
  | .type _ payload => !payload.isEmpty
  | .modes _ payload => !payload.isEmpty
  | .speed _ payload => !payload.isEmpty
  | .version _ payload => !payload.isEmpty
  | .infoName _ payload => !payload.isEmpty
  | .infoRaw _ payload => !payload.isEmpty
  | .infoPct _ payload => !payload.isEmpty
  | .infoSi _ payload => !payload.isEmpty
  | .infoSymbol _ payload => !payload.isEmpty
  | .infoMapping _ payload => !payload.isEmpty
  | .infoFormat _ payload => !payload.isEmpty
  | .ack => true
  | .dataGeneric d ck => p == .generic && ck == Machine.checksum [0xC0, d]
  | .dataEv3 k lo hi ck => p == .ev3Compatible && ck == Machine.checksum [ev3HeaderOf k, lo, hi]
  | .connect => true
  | .tick => true
  | .setValue _ => true
  | .getMode => true
  | .isConnected => true
  | .getText => true
  | .ms => true
  | .rx _ => true
  | .reset => true
  | .checksum _ => true
  | .buildFrame _ _ => true
  | .verifyFrame _ => true

/-- R160: a capability frame's payload has the length its header declares. R161 lets no rule depend on it, so it is a check a
configuration may be put to and no condition of the machine. -/
def RomFrame.declaresItsLength (f : RomFrame) : Bool := f.more.length + 1 == declaredLength f.header

/-- Every frame of a mode's group declares its length (R160). -/
def ModeGroup.declaresItsLengths (g : ModeGroup) : Bool :=
  [g.name, g.raw, g.percent, g.si, g.symbol, g.mapping, g.format].all RomFrame.declaresItsLength

/-- Every capability frame of the ROM declares its length (R160). -/
def Rom.declaresItsLengths (r : Rom) : Bool := r.groups.all ModeGroup.declaresItsLengths

end Sys2Proof
end

