-- ==== Sys2Proof/Decode.lean ====
section
/-! DEFINITION. Decoding of bytes to instructions, total on any bytes and rejecting by name, and the encoder. A byte means
different rows in different contexts (R103, R104, R105), so decoding takes the context. -/

namespace Sys2Proof
open Machine

/-- Where bytes are decoded: the parser's drain (R103), a poll of the ACK wait (R104), a slot of the handshake ROM (R105), the
encoder's outbound unit (R105). -/
inductive Context where
  | steady
  | ackWait
  | rom (slot : RomSlot)
  | outbound
  deriving DecidableEq, Repr

/-- Why bytes are no instruction of a context. -/
inductive Reject where
  /-- There is no byte. -/
  | noBytes
  /-- The bytes end inside a message, in the phase named (R212, R240). -/
  | truncated (ph : Phase)
  /-- A ROM entry is not the bare byte its slot holds (R152). -/
  | notTheBareByte
  /-- A ROM entry is shorter than three bytes or its checksum is wrong (R157). -/
  | notAFrame
  /-- The bytes do not begin as the profile's outbound unit does (R252, R254). -/
  | notTheUnit
  deriving DecidableEq, Repr

/-- A decoded instruction with the bytes behind it, or the reason there is none. -/
inductive Decoded where
  | ok (i : Instr) (rest : List Byte)
  | rejected (r : Reject)
  deriving DecidableEq, Repr

/-- `SELECT` behind its leading byte: mode byte, checksum byte (R214 to R216). -/
def decodeSelect : List Byte → Decoded
  | [] => .rejected (.truncated .selM)
  | [_] => .rejected (.truncated .selCk)
  | m :: ck :: rest => .ok (.select m ck) rest

/-- The data frame of `WRITE_DATA` behind accepted markers (R221 to R224). -/
def decodeDataFrame (m0 m1 : Byte) : List Byte → Decoded
  | [] => .rejected (.truncated .wdSm)
  | sm :: r =>
    if r.length < declaredLength sm then .rejected (.truncated .wdPay)
    else match r.drop (declaredLength sm) with
      | [] => .rejected (.truncated .wdCk)
      | ck :: rest => .ok (.writeData m0 m1 (some ⟨sm, r.take (declaredLength sm), ck⟩)) rest

/-- `WRITE_DATA` behind its leading byte: two marker bytes, then a data frame if they are accepted (R218 to R224, R108). -/
def decodeWriteData (p : Profile) : List Byte → Decoded
  | [] => .rejected (.truncated .wdM0)
  | [_] => .rejected (.truncated .wdM1)
  | m0 :: m1 :: r => if markersAccepted p m0 m1 then decodeDataFrame m0 m1 r else .ok (.writeData m0 m1 none) r

/-- `COMBO` behind its leading byte: COMBO_LEN data bytes, checksum byte (R228, R229). -/
def decodeCombo (p : Profile) (r : List Byte) : Decoded :=
  if r.length < comboLen p then .rejected (.truncated .cbPay)
  else match r.drop (comboLen p) with
    | [] => .rejected (.truncated .cbCk)
    | ck :: rest => .ok (.combo (r.take (comboLen p)) ck) rest

/-- Steady state: dispatch on the whole leading byte (R103, R107). -/
def decodeSteady (p : Profile) : List Byte → Decoded
  | [] => .rejected .noBytes
  | b :: r =>
    if b = 0x00 then .ok .nop0 r
    else if b = 0x02 then .ok .keepalive r
    else if b = 0x43 then decodeSelect r
    else if b = 0x46 then decodeWriteData p r
    else if b = 0x4C then decodeCombo p r
    else .ok (.unknown b) r

/-- A poll of the ACK wait compares one byte with 0x04 (R104). -/
def decodeAckWait : List Byte → Decoded
  | [] => .rejected .noBytes
  | b :: r => if b = ackByte then .ok .ackEcho r else .ok (.ackwaitDiscard b) r

/-- The row a ROM slot holds, given header and payload (R105); the two bare bytes have neither. -/
def romInstr : RomSlot → Byte → List Byte → Instr
  | .sync, _, _ => .sync
  | .type, h, p => .type h p
  | .modes, h, p => .modes h p
  | .speed, h, p => .speed h p
  | .version, h, p => .version h p
  | .infoName, h, p => .infoName h p
  | .infoRaw, h, p => .infoRaw h p
  | .infoPct, h, p => .infoPct h p
  | .infoSi, h, p => .infoSi h p
  | .infoSymbol, h, p => .infoSymbol h p
  | .infoMapping, h, p => .infoMapping h p
  | .infoFormat, h, p => .infoFormat h p
  | .ack, _, _ => .ack

/-- A ROM entry in a frame slot is a valid F1 frame of at least three bytes (R157). -/
def decodeRomFrame (slot : RomSlot) (bs : List Byte) : Decoded :=
  if 3 ≤ bs.length ∧ verifyFrame bs = true then
    .ok (romInstr slot (bs.headD 0) (bs.tail.dropLast)) []
  else .rejected .notAFrame

/-- A whole ROM entry in its slot: SYNC and ACK are bare bytes (R152), every other slot holds a frame. -/
def decodeRom (slot : RomSlot) (bs : List Byte) : Decoded :=
  match slot with
  | .sync => if bs = [syncByte] then .ok .sync [] else .rejected .notTheBareByte
  | .ack => if bs = [ackByte] then .ok .ack [] else .rejected .notTheBareByte
  | s => decodeRomFrame s bs

/-- The profile's outbound unit by the match and mask of the opcode table: `C0 d ck`, or `46 00 B9 11001kkk lo hi ck`. The
checksum byte is kept as an operand and not judged here. -/
def decodeOutbound (p : Profile) (bs : List Byte) : Decoded :=
  match p with
  | .generic =>
    match bs with
    | h :: d :: ck :: rest => if h = 0xC0 then .ok (.dataGeneric d ck) rest else .rejected .notTheUnit
    | _ => .rejected .notTheUnit
  | .ev3Compatible =>
    match bs with
    | a :: b :: c :: h :: lo :: hi :: ck :: rest =>
      if a = 0x46 ∧ b = 0x00 ∧ c = 0xB9 ∧ h &&& 0xF8 = 0xC8 then .ok (.dataEv3 (lowField h) lo hi ck) rest
      else .rejected .notTheUnit
    | _ => .rejected .notTheUnit

/-- Decoding in a context, total on any bytes. -/
def decode (p : Profile) (c : Context) (bs : List Byte) : Decoded :=
  match c with
  | .steady => decodeSteady p bs
  | .ackWait => decodeAckWait bs
  | .rom slot => decodeRom slot bs
  | .outbound => decodeOutbound p bs

/-- The context a row is decoded in (the opcode table's column "context"); host operations and codec functions have none. -/
def contextOf : Instr → Option Context
  | .nop0 => some .steady
  | .keepalive => some .steady
  | .select _ _ => some .steady
  | .writeData _ _ _ => some .steady
  | .combo _ _ => some .steady
  | .unknown _ => some .steady
  | .ackEcho => some .ackWait
  | .ackwaitDiscard _ => some .ackWait
  | .sync => some (.rom .sync)
  | .type _ _ => some (.rom .type)
  | .modes _ _ => some (.rom .modes)
  | .speed _ _ => some (.rom .speed)
  | .version _ _ => some (.rom .version)
  | .infoName _ _ => some (.rom .infoName)
  | .infoRaw _ _ => some (.rom .infoRaw)
  | .infoPct _ _ => some (.rom .infoPct)
  | .infoSi _ _ => some (.rom .infoSi)
  | .infoSymbol _ _ => some (.rom .infoSymbol)
  | .infoMapping _ _ => some (.rom .infoMapping)
  | .infoFormat _ _ => some (.rom .infoFormat)
  | .ack => some (.rom .ack)
  | .dataGeneric _ _ => some .outbound
  | .dataEv3 _ _ _ _ => some .outbound
  | .connect => none
  | .tick => none
  | .setValue _ => none
  | .getMode => none
  | .isConnected => none
  | .getText => none
  | .ms => none
  | .rx _ => none
  | .reset => none
  | .checksum _ => none
  | .buildFrame _ _ => none
  | .verifyFrame _ => none

/-- The bytes of a data frame (R98, bytes 3 to 4 + L). -/
def encodeDataFrame (d : DataFrame) : List Byte := d.sizeMode :: d.payload ++ [d.ck]

/-- The bytes of an instruction, first byte first on the wire (R92, R93, R98, R103, R105). Host operations and codec functions
have no bit encoding: no bytes. -/
def encode : Instr → List Byte
  | .nop0 => [0x00]
  | .keepalive => [0x02]
  | .select m ck => [0x43, m, ck]
  | .writeData m0 m1 none => [0x46, m0, m1]
  | .writeData m0 m1 (some d) => 0x46 :: m0 :: m1 :: encodeDataFrame d
  | .combo data ck => 0x4C :: data ++ [ck]
  | .unknown b => [b]
  | .ackEcho => [ackByte]
  | .ackwaitDiscard b => [b]
  | .sync => [syncByte]
  | .type h p => Machine.buildFrame h p
  | .modes h p => Machine.buildFrame h p
  | .speed h p => Machine.buildFrame h p
  | .version h p => Machine.buildFrame h p
  | .infoName h p => Machine.buildFrame h p
  | .infoRaw h p => Machine.buildFrame h p
  | .infoPct h p => Machine.buildFrame h p
  | .infoSi h p => Machine.buildFrame h p
  | .infoSymbol h p => Machine.buildFrame h p
  | .infoMapping h p => Machine.buildFrame h p
  | .infoFormat h p => Machine.buildFrame h p
  | .ack => [ackByte]
  | .dataGeneric d ck => [0xC0, d, ck]
  | .dataEv3 k lo hi ck => [0x46, 0x00, 0xB9, ev3HeaderOf k, lo, hi, ck]
  | .connect => []
  | .tick => []
  | .setValue _ => []
  | .getMode => []
  | .isConnected => []
  | .getText => []
  | .ms => []
  | .rx _ => []
  | .reset => []
  | .checksum _ => []
  | .buildFrame _ _ => []
  | .verifyFrame _ => []

/-- The longest message is a WRITE-DATA with 128 payload bytes (R113). -/
def longestMessage : Nat := 133

/-- The profile `decodeTableWord` decodes a message of steady state in. -/
def tableProfile : Profile := .generic

/-- The bytes of a numbered table word, zeros above it. The first byte is bits 7:0, the next bits 15:8, and so on; the table
numbers its one four-byte row `DATA_EV3` the other way round, first byte in bits 31:24 (match 0x4600B9C8). -/
def tableBytes (nbits w : Nat) : List Byte :=
  if nbits = 32 ∧ w / 8 % 2 ^ 29 = 0x4600B9C8 / 8 then
    [0x46, 0x00, 0xB9, BitVec.ofNat 8 w] ++ List.replicate (longestMessage - 4) 0x00
  else
    (List.range longestMessage).map (fun k => BitVec.ofNat 8 ((w % 2 ^ nbits) >>> (8 * k)))

/-- Whether bytes begin as an EV3 outbound unit does (mask 0xFFFFFFF8 of the table). -/
def beginsAsEv3Unit (bs : List Byte) : Bool :=
  match bs with
  | a :: b :: c :: h :: _ => a == 0x46 && b == 0x00 && c == 0xB9 && h &&& 0xF8 == 0xC8
  | _ => false

/-- A table word has no context of its own. The row with the most fixed bits comes first, then the rows in the table's order,
the default rows last: `DATA_EV3` before `WRITE_DATA`, `NOP0` before `SYNC`, `ACK_ECHO` before `ACK`. -/
def tableContext (bs : List Byte) : Profile × Context :=
  if beginsAsEv3Unit bs then (.ev3Compatible, .outbound)
  else match bs with
    | b :: _ =>
      if b = ackByte then (tableProfile, .ackWait)
      else if b = 0xC0 then (.generic, .outbound)
      else (tableProfile, .steady)
    | [] => (tableProfile, .steady)

/-- The instruction the decoder reads from a numbered table word. -/
def decodeTableWord (nbits w : Nat) : Option Instr :=
  let bs := tableBytes nbits w
  match decode (tableContext bs).1 (tableContext bs).2 bs with
  | .ok i _ => some i
  | .rejected _ => none

end Sys2Proof
end

