-- ==== Sys2Proof/Machine/RomTable.lean ====
section
/-! DEFINITION. The handshake ROM read by index (R66, R150), the order of the mode groups (R155, R156, R159), the refusal of an
ill-formed list of entries (U1), and the synthetic ROM `TEST_SEQ` of 95_test_vectors.md section 8. -/

namespace Sys2Proof.Machine

/-- One line of the ROM: its slot, the instruction whose bytes it holds, the gap in milliseconds after it (R150). -/
structure RomLine where
  slot  : RomSlot
  instr : Instr
  gap   : Nat
  deriving DecidableEq, Repr

/-- The line of a frame in a frame slot. -/
def frameLine (slot : RomSlot) (f : RomFrame) : RomLine :=
  ⟨slot, romInstr slot f.header (f.first :: f.more), gapMs f.gap⟩

/-- The seven lines of one mode's group, in the order of R154. -/
def groupLines (g : ModeGroup) : List RomLine :=
  [frameLine .infoName g.name, frameLine .infoRaw g.raw, frameLine .infoPct g.percent, frameLine .infoSi g.si,
   frameLine .infoSymbol g.symbol, frameLine .infoMapping g.mapping, frameLine .infoFormat g.format]

/-- The ROM in index order: SYNC, TYPE, MODES, SPEED, VERSION, the groups, ACK with gap 0 (R152 to R154). -/
def romProgram (r : Rom) : List RomLine :=
  [⟨.sync, .sync, gapMs r.syncGap⟩, frameLine .type r.type, frameLine .modes r.modes, frameLine .speed r.speed,
   frameLine .version r.version] ++ r.groups.flatMap groupLines ++ [⟨.ack, .ack, 0⟩]

/-- `HS_SEQ` as the list of pairs `(bytes_i, gap_i)` (R150). -/
def romEntries (r : Rom) : List (List Byte × Nat) := (romProgram r).map (fun l => (encode l.instr, l.gap))

/-- `K`, the number of entries (R150, R154). -/
def romLength (r : Rom) : Nat := (romProgram r).length

/-- The mode that the group at place `g` of the transmission describes: the hub numbers modes by descending transmission order, so
the first group is the highest-numbered mode and the last one mode 0 (R159). No transition reads it: the hub does the numbering. -/
def modeOfGroup? (r : Rom) (g : Nat) : Option Nat :=
  if g < r.groups.length then some (r.groups.length - 1 - g) else none

/-- The four array modes, each once (R155). -/
def arrayModes : List ArrayMode := [.int8Array, .int16Array, .int32Array, .floatArray]

/-- The profile a mode table is for. -/
def tableProfile : ModeTable → Profile
  | .generic _ _ => .generic
  | .ev3Compatible _ => .ev3Compatible

/-- A mode table has the modes its profile must have: a Generic one each of the four array modes once, in whatever order (R155). -/
def tableComplete : ModeTable → Bool
  | .generic arrays _ => (arrays.map Prod.fst).isPerm arrayModes
  | .ev3Compatible _ => true

/-- The groups of a mode table in the order of transmission: on Generic the array modes, then the domain-specific modes (R155); on
Ev3Compatible the highest mode number first, mode 0 last (R156). -/
def tableGroups : ModeTable → List ModeGroup
  | .generic arrays domain => arrays.map Prod.snd ++ domain
  | .ev3Compatible byNumber => byNumber.reverse

/-- How many groups of a ROM, its first ones, are those of the synthetic array modes (R155); Ev3Compatible has none. -/
def arrayGroupCount : Profile → Nat
  | .generic => arrayModes.length
  | .ev3Compatible => 0

/-- The groups of the synthetic array modes: the first four of a Generic ROM (R155). -/
def arrayGroups (p : Profile) (r : Rom) : List ModeGroup := r.groups.take (arrayGroupCount p)

/-- The groups of the profile's own modes, behind those of the array modes (R155, R156). -/
def ownGroups (p : Profile) (r : Rom) : List ModeGroup := r.groups.drop (arrayGroupCount p)

/-- R155, R156 as a condition on a ROM: it has room for the array modes its profile puts first. No byte of a group tells which mode
it describes (N1), so a group's place does. -/
def romMeetsProfile (p : Profile) (r : Rom) : Bool := arrayGroupCount p ≤ r.groups.length

/-- A gap of 1 to 18 ms (R158). -/
def gapOf? (n : Nat) : Option Gap :=
  if h : 1 ≤ n ∧ n ≤ 18 then some ⟨n - 1, by omega⟩ else none

/-- An entry as a frame: at least three bytes, checksum right (R157), gap in range (R158). -/
def frameOf? (e : List Byte × Nat) : Option RomFrame :=
  match e.1, gapOf? e.2 with
  | h :: p0 :: c :: more, some g =>
    if verifyFrame (h :: p0 :: c :: more) then some ⟨h, p0, (c :: more).dropLast, g⟩ else none
  | _, _ => none

/-- The entries behind VERSION: groups of seven frames, then the ACK entry (R152, R154). -/
def groupsOf? : List (List Byte × Nat) → Option (List ModeGroup)
  | [e] => if e = ([ackByte], 0) then some [] else none
  | a :: b :: c :: d :: e :: f :: g :: rest =>
    match frameOf? a, frameOf? b, frameOf? c, frameOf? d, frameOf? e, frameOf? f, frameOf? g, groupsOf? rest with
    | some a, some b, some c, some d, some e, some f, some g, some gs => some (⟨a, b, c, d, e, f, g⟩ :: gs)
    | _, _, _, _, _, _, _, _ => none
  | _ => none

/-- A list of entries as a ROM of either profile, or none: a list that breaks R152 to R154, R157 or R158 is refused (U1). -/
def romOfEntries? : List (List Byte × Nat) → Option Rom
  | s :: t :: m :: sp :: v :: rest =>
    match gapOf? s.2, frameOf? t, frameOf? m, frameOf? sp, frameOf? v, groupsOf? rest with
    | some g0, some t, some m, some sp, some v, some gs => if s.1 = [syncByte] then some ⟨g0, t, m, sp, v, gs⟩ else none
    | _, _, _, _, _, _ => none
  | _ => none

/-- A list of entries as `HS_SEQ[p]`, or none: beside the rules of `romOfEntries?`, a list that breaks the profile's own, R155 or
R156, is refused as a configuration (U1). -/
def hsSeqOfEntries? (p : Profile) (es : List (List Byte × Nat)) : Option Rom :=
  (romOfEntries? es).filter (romMeetsProfile p)

/-- The one mode group of `TEST_SEQ` (95_test_vectors.md section 8, entries 5 to 11). -/
def testGroup : ModeGroup where
  name    := ⟨0x90, 0x54, [0x45, 0x53, 0x54], 1⟩
  raw     := ⟨0x98, 0x00, [0x00, 0x00, 0x00, 0x00, 0x00, 0x80, 0x3F], 1⟩
  percent := ⟨0x98, 0x00, [0x00, 0x00, 0x00, 0x00, 0x00, 0xC8, 0x42], 1⟩
  si      := ⟨0x98, 0x00, [0x00, 0x00, 0x00, 0x00, 0x00, 0x80, 0x3F], 1⟩
  symbol  := ⟨0x90, 0x75, [0x6E, 0x69, 0x74], 1⟩
  mapping := ⟨0x88, 0x10, [0x00], 1⟩
  format  := ⟨0x90, 0x01, [0x00, 0x03, 0x00], 1⟩

/-- `TEST_SEQ` (95_test_vectors.md section 8), a synthetic ROM and not the advertisement of a real device. With its one mode group it
meets R152 to R158 as a ROM of Ev3Compatible; the spec's programs use it for Generic too, where R155 asks for four array modes. -/
def testRom : Rom where
  syncGap := 1
  type    := ⟨0x40, 0x23, [], 1⟩
  modes   := ⟨0x49, 0x00, [0x00], 1⟩
  speed   := ⟨0x52, 0x00, [0xC2, 0x01, 0x00], 1⟩
  version := ⟨0x5F, 0x00, [0x00, 0x00, 0x10, 0x00, 0x00, 0x00, 0x10], 1⟩
  groups  := [testGroup]

end Sys2Proof.Machine
end

