-- ==== Sys2Proof/Machine/State.lean ====
section
/-! DEFINITION. The state record of 10_state.md (R20), with the model's own input and output fields, and its value after reset
(R48). -/

namespace Sys2Proof.Machine

/-- The block raises nothing (R300) and no behaviour of it is a fault (93_implementation_defined.md section 1): there is no
reason to stop with a fault, and no constructor. Safe. -/
inductive Fault where
  deriving DecidableEq, Repr

/-- Why an instruction has no meaning. -/
inductive Refusal where
  /-- Raised by an arm of `exec` for an instruction that has no meaning yet. Safe. No arm raises it. -/
  | notModelled (mnemonic : String)
  deriving DecidableEq, Repr

/-- The whole state (R20). The last six fields are the model's own: the environment's events and write counts still to come, and
what the block has put out. -/
structure State where
  /-- The device's constants: profile, RX_DEPTH, handshake ROM (R9, R27, R88). -/
  cfg       : Config
  /-- LinkState (R21). -/
  link      : Link
  /-- CurrentMode (R22). -/
  mode      : ModeNum
  /-- ReportedValue (R23). -/
  value     : Value
  /-- TextBuffer (R24). -/
  text      : Text
  /-- `connect_ok`, the result of the last finished `connect` (R45). -/
  connectOk : Bool
  /-- What drives the serial line (R30). -/
  line      : Line
  /-- Baud rate in force while the line is the UART's (R31). -/
  baud      : Baud
  /-- `rx_fifo`, oldest byte first (R38). -/
  rxFifo    : List Byte
  /-- `hs_step` (R34). -/
  hsStep    : HsStep
  /-- `rom_ptr` (R35). -/
  romPtr    : Nat
  /-- `hs_timer` (R36). -/
  hsTimer   : Nat
  /-- `hs_polls` (R37). -/
  hsPolls   : Nat
  /-- Parser phase (R39). -/
  ph        : Phase
  /-- Running checksum (R40). -/
  acc       : Byte
  /-- Payload bytes still to read (R41). -/
  cnt       : Nat
  /-- Payload bytes read so far (R41). -/
  idx       : Nat
  /-- WRITE-DATA second marker pair taken (R42). -/
  bank      : Bool
  /-- First marker byte (R43). -/
  m0        : Byte
  /-- WRITE-DATA size/mode byte (R43). -/
  sm        : Byte
  /-- SELECT mode byte (R43). -/
  selM      : Byte
  /-- COMBO payload (R43). -/
  cb        : Vector Byte 2
  /-- Staging copy of the text (R44). -/
  stage     : Text
  /-- The events the environment will deliver, oldest first (R12, R311). The model's own. -/
  inputs    : List Event
  /-- The counts the transport will answer, oldest first (R64). The model's own. -/
  txAnswers : List Nat
  /-- How many counts were drawn freely. The model's own. -/
  draws     : Nat
  /-- The writes made, oldest first (R65). The model's own. -/
  txLog     : List TxRecord
  /-- The diagnostic output, oldest first (R301). The model's own. -/
  diag      : List Diag
  /-- What accessors and codec functions returned, oldest first. The model's own. -/
  replies   : List Reply
  deriving DecidableEq, Repr

/-- The device profile, a field of `S` (R20, R27). -/
abbrev State.profile (s : State) : Profile := s.cfg.profile

/-- `K` of this device's ROM (R150). -/
abbrev State.romK (s : State) : Nat := romLength s.cfg.rom

/-- The transmit stream: the first `n` bytes of each write, in the order of the writes (R65). -/
def State.wire (s : State) : List Byte := s.txLog.flatMap (fun r => r.offered.take r.count)

/-- Every field at its reset value (R48) for a device with constants `c`, nothing put in and nothing put out. -/
def State.resetWith (c : Config) : State where
  cfg       := c
  link      := .disconnected
  mode      := 0
  value     := 0
  text      := spaces13
  connectOk := false
  line      := .released
  baud      := initBaud c.profile
  rxFifo    := []
  hsStep    := .idle
  romPtr    := 0
  hsTimer   := 0
  hsPolls   := 0
  ph        := .idle
  acc       := 0
  cnt       := 0
  idx       := 0
  bank      := false
  m0        := 0
  sm        := 0
  selM      := 0
  cb        := #v[0, 0]
  stage     := spaces13
  inputs    := []
  txAnswers := []
  draws     := 0
  txLog     := []
  diag      := []
  replies   := []

/-- The constants of `State.reset`. DESIGN CHOICE (log entry 2): Ev3Compatible, RX_DEPTH 64, TEST_SEQ, which meets R152 to R158 for
that profile. The statements hold for every `cfg`. -/
def defaultConfig : Config := ⟨.ev3Compatible, 63, testRom⟩

/-- The machine right after reset (R48). -/
def State.reset : State := State.resetWith defaultConfig

end Sys2Proof.Machine
end

