-- ==== Sys2Proof/Machine/Ops.lean ====
section
/-! DEFINITION. The primitives of R15 over the state: emit, RxAvail, RxPop, rx, TxWrite, RomRead, Delay; the session reset; and
the block's substitute for taking an exception, the failures of R315. -/

namespace Sys2Proof.Machine

/-- `emit E(args)`: put an event on the diagnostic output (R301). -/
def State.emit (s : State) (d : Diag) : State := { s with diag := s.diag ++ [d] }

/-- Hand a returned value to the caller. No field of `S` changes. -/
def State.answer (s : State) (r : Reply) : State := { s with replies := s.replies ++ [r] }

/-- `RxAvail()` (R63). -/
def State.rxAvail (s : State) : Bool := !s.rxFifo.isEmpty

/-- `RxPop()`: the oldest byte and the state without it; none when there is no byte (R63). -/
def State.rxPop (s : State) : Option (Byte × State) :=
  match s.rxFifo with
  | [] => none
  | b :: rest => some (b, { s with rxFifo := rest })

/-- A byte arrives: appended while the line is the UART's and the FIFO has room, else lost (R62). -/
def State.receive (s : State) (b : Byte) : State :=
  if s.line = .uart ∧ s.rxFifo.length < s.cfg.rxDepth then { s with rxFifo := s.rxFifo ++ [b] } else s

/-- The count the transport answers to the next write of `len` bytes: the next given answer, else a free draw; never above `len`
(R64). -/
def State.txCount (s : State) (len : Nat) : Nat :=
  match s.txAnswers with
  | n :: _ => min n len
  | [] => min (Config.freeTxCount s.draws) len

/-- `TxWrite(bytes)`: the count answered, and the state with the write on the transmit stream (R64, R65). A given answer is used
up; a free draw moves the counter on. -/
def State.txWrite (s : State) (bytes : List Byte) : Nat × State :=
  (s.txCount bytes.length,
   { s with
     txLog := s.txLog ++ [⟨s.baud, bytes, s.txCount bytes.length⟩]
     txAnswers := s.txAnswers.tail
     draws := if s.txAnswers.isEmpty then s.draws + 1 else s.draws })

/-- `RomRead(rom_ptr)`: the line of the ROM at the pointer, none behind its end (R66). -/
def State.romLine? (s : State) : Option RomLine := (romProgram s.cfg.rom)[s.romPtr]?

/-- `Delay(n)`: load the timer (R171). -/
def State.delay (s : State) (n : Nat) : State := { s with hsTimer := n }

/-- `session_reset()` (R174). -/
def State.sessionReset (s : State) : State := { s with mode := 0, text := spaces13, ph := .idle }

/-- Open the line as a UART at a baud rate, the receive FIFO emptied (R177, R191). -/
def State.openLine (s : State) (b : Baud) : State := { s with line := .uart, baud := b, rxFifo := [] }

/-- A handshake fails with the failure event `d`: what R180 and R188 write in common (R315). -/
def State.failHandshake (s : State) (d : Diag) : State :=
  (({ s with link := .disconnected, connectOk := false, hsStep := .idle }).emit d).emit (.connectDone false)

/-- The link is lost in steady state: only `link` changes (R258, R315). -/
def State.loseLink (s : State) (n : Nat) : State := ({ s with link := .disconnected }).emit (.linkLost n)

/-- A handshake ends in `Connected` (R192). -/
def State.completeHandshake (s : State) : State :=
  ({ s with link := .connected, connectOk := true, hsStep := .idle }).emit (.connectDone true)

/-- The event `reset`: every field of `S` at its reset value, the device's constants and the model's own fields as they are
(R340). -/
def State.hardReset (s : State) : State :=
  { State.resetWith s.cfg with
    inputs := s.inputs, txAnswers := s.txAnswers, draws := s.draws, txLog := s.txLog, diag := s.diag, replies := s.replies }

end Sys2Proof.Machine
end

