-- ==== Sys2Proof/Machine/HandshakeOps.lean ====
section
/-! DEFINITION. The handshake sequencer's operations (42_handshake.md, R173 to R192). -/

namespace Sys2Proof.Machine

/-- Start of a handshake (R173). -/
def startHandshake (s : State) : State :=
  let s := { s with link := .handshaking }
  let s := s.sessionReset
  let s := { s with romPtr := 0, hsPolls := 0, line := .gpioLow }
  { s.delay (pulse1Ms s.profile) with hsStep := .pulse1 }

/-- Entry to the ACK wait (R185). -/
def enterAckWait (s : State) : State := { ({ s with hsPolls := 0 }).delay ackPollMs with hsStep := .ackWait }

/-- A handshake write succeeded, of an entry with gap `gap` (R179). -/
def romWriteOk (s : State) (gap : Nat) : State :=
  if s.romPtr + 1 = s.romK then enterAckWait { s with romPtr := s.romPtr + 1 }
  else { ({ s with romPtr := s.romPtr + 1 }).delay gap with hsStep := .gap }

/-- A handshake write failed after `n` bytes (R180). -/
def romWriteFail (s : State) (n : Nat) : State :=
  ({ s with hsTimer := 0 }).failHandshake (.handshakeWriteFail s.romPtr n)

/-- Offer the bytes of a ROM entry and go on by the count answered (R178). -/
def sendEntry (s : State) (bytes : List Byte) (gap : Nat) : State :=
  let w := s.txWrite bytes
  if shortWrite w.1 bytes.length then romWriteFail w.2 w.1 else romWriteOk w.2 gap

/-- A ROM row is transmitted in `HS_SEND` only, when it is the entry at the ROM pointer (R34, R66, R178, R260). -/
def sendRow (i : Instr) (s : State) : State :=
  match s.romLine? with
  | none => s
  | some l => if s.hsStep = .send ∧ l.instr = i then sendEntry s (encode i) l.gap else s

/-- The send step: transmit the entry at the ROM pointer (R178). Behind the ROM's end, which no run reaches, nothing is sent. -/
def sendStep (s : State) : State :=
  match s.romLine? with
  | none => s
  | some l => sendRow l.instr { s with hsStep := .send }

/-- End of the first pulse: release, open the line at the initial baud rate, send entry 0 (R176, R177). -/
def endPulse1 (s : State) : State :=
  sendStep (({ s with line := .gpioHigh }).openLine (initBaud s.profile))

/-- Timeout of the ACK wait (R188). -/
def handshakeTimeout (s : State) : State := s.failHandshake .handshakeTimeout

/-- A poll did not acknowledge: the last one times out, any other waits on (R186). -/
def pollMissed (s : State) : State := if s.hsPolls = ackPolls then handshakeTimeout s else s.delay ackPollMs

/-- Acknowledged: Generic starts the second pulse, Ev3Compatible is connected (R189, R190, R192). -/
def acknowledged (s : State) : State :=
  if baudSwitch s.profile then { ({ s with line := .gpioLow }).delay pulse2Ms with hsStep := .pulse2 }
  else s.completeHandshake

/-- A byte other than 0x04 was polled (R187). -/
def discardPolled (s : State) (b : Byte) : State := pollMissed (s.emit (.ackWaitDiscard b))

/-- One poll: counted, then at most one byte read and compared with 0x04 (R186). -/
def poll (s : State) : State :=
  let s := { s with hsTimer := 0, hsPolls := s.hsPolls + 1 }
  match s.rxPop with
  | none => pollMissed s
  | some (b, s) => if b = ackByte then acknowledged s else discardPolled s b

/-- End of the second pulse: release, reopen at the final baud rate, connected (R191, R192). -/
def endPulse2 (s : State) : State :=
  (({ s with line := .gpioHigh }).openLine finalBaud).completeHandshake

/-- The exit rule of a step whose delay has run out (R171): R176, R181, R186, R191. `HS_IDLE` and `HS_SEND` have no delay. -/
def exitStep (s : State) : State :=
  match s.hsStep with
  | .idle => s
  | .pulse1 => endPulse1 s
  | .send => s
  | .gap => sendStep s
  | .ackWait => poll s
  | .pulse2 => endPulse2 s

/-- One millisecond (R171): nothing outside a handshake or with the timer at 0; else one down, and at 0 the exit rule. -/
def millisecond (s : State) : State :=
  if s.hsStep = .idle then s
  else match s.hsTimer with
    | 0 => s
    | t + 1 => if t = 0 then exitStep { s with hsTimer := 0 } else { s with hsTimer := t }

end Sys2Proof.Machine
end

