-- ==== Sys2Proof/Machine/Advertisement.lean ====
section
/-! DEFINITION. Meanings of the frames of the handshake ROM (41_advertisement.md): each is transmitted by the send step (R178). -/

namespace Sys2Proof.Machine

/-- `TYPE`: the sensor type frame (R153), sent by R178. -/
def execType (header : Byte) (payload : List Byte) (s : State) : Host.Outcome State Fault Refusal :=
  .next (sendRow (.type header payload) s)

/-- `MODES`: the modes-count frame (R153), sent by R178. -/
def execModes (header : Byte) (payload : List Byte) (s : State) : Host.Outcome State Fault Refusal :=
  .next (sendRow (.modes header payload) s)

/-- `SPEED`: the target baud rate frame (R153), sent by R178. -/
def execSpeed (header : Byte) (payload : List Byte) (s : State) : Host.Outcome State Fault Refusal :=
  .next (sendRow (.speed header payload) s)

/-- `VERSION`: the version frame (R153), sent by R178. -/
def execVersion (header : Byte) (payload : List Byte) (s : State) : Host.Outcome State Fault Refusal :=
  .next (sendRow (.version header payload) s)

/-- `INFO_NAME`: mode name and flags (R154), sent by R178. -/
def execInfoName (header : Byte) (payload : List Byte) (s : State) : Host.Outcome State Fault Refusal :=
  .next (sendRow (.infoName header payload) s)

/-- `INFO_RAW`: raw range (R154), sent by R178. -/
def execInfoRaw (header : Byte) (payload : List Byte) (s : State) : Host.Outcome State Fault Refusal :=
  .next (sendRow (.infoRaw header payload) s)

/-- `INFO_PCT`: percent range (R154), sent by R178. -/
def execInfoPct (header : Byte) (payload : List Byte) (s : State) : Host.Outcome State Fault Refusal :=
  .next (sendRow (.infoPct header payload) s)

/-- `INFO_SI`: SI range (R154), sent by R178. -/
def execInfoSi (header : Byte) (payload : List Byte) (s : State) : Host.Outcome State Fault Refusal :=
  .next (sendRow (.infoSi header payload) s)

/-- `INFO_SYMBOL`: unit string (R154), sent by R178. -/
def execInfoSymbol (header : Byte) (payload : List Byte) (s : State) : Host.Outcome State Fault Refusal :=
  .next (sendRow (.infoSymbol header payload) s)

/-- `INFO_MAPPING`: input/output capability bytes (R154), sent by R178. -/
def execInfoMapping (header : Byte) (payload : List Byte) (s : State) : Host.Outcome State Fault Refusal :=
  .next (sendRow (.infoMapping header payload) s)

/-- `INFO_FORMAT`: data-set format (R154), sent by R178. -/
def execInfoFormat (header : Byte) (payload : List Byte) (s : State) : Host.Outcome State Fault Refusal :=
  .next (sendRow (.infoFormat header payload) s)

end Sys2Proof.Machine
end

