-- ==== Sys2Proof/Machine/CodecFns.lean ====
section
/-! DEFINITION. Meanings of the codec functions (40_codec.md): each returns its value and reads and writes no field of `S`. -/

namespace Sys2Proof.Machine

/-- `checksum(bytes)` (R130). -/
def execChecksum (bytes : List Byte) (s : State) : Host.Outcome State Fault Refusal :=
  .next (s.answer (.byte (checksum bytes)))

/-- `build_frame(header, payload)` (R131). -/
def execBuildFrame (header : Byte) (payload : List Byte) (s : State) : Host.Outcome State Fault Refusal :=
  .next (s.answer (.bytes (buildFrame header payload)))

/-- `verify_frame(received)` (R132). -/
def execVerifyFrame (received : List Byte) (s : State) : Host.Outcome State Fault Refusal :=
  .next (s.answer (.verdict (verifyFrame received)))

end Sys2Proof.Machine
end

