-- ==== Sys2Proof/Machine/Handshake.lean ====
section
/-! DEFINITION. Meanings of the rows of a handshake: the bytes a poll of the ACK wait reads (R186, R187) and the bare bytes SYNC and
ACK of the ROM (R178). -/

namespace Sys2Proof.Machine

/-- `ACK_ECHO`: a poll read 0x04 (R186, R189). The poll itself has been counted and the byte popped. -/
def execAckEcho (s : State) : Host.Outcome State Fault Refusal :=
  .next (if s.hsStep = .ackWait then acknowledged s else s)

/-- `ACKWAIT_DISCARD`: a poll read another byte (R187). -/
def execAckwaitDiscard (b : Byte) (s : State) : Host.Outcome State Fault Refusal :=
  .next (if s.hsStep = .ackWait then discardPolled s b else s)

/-- `SYNC` (R152, R178). -/
def execSync (s : State) : Host.Outcome State Fault Refusal := .next (sendRow .sync s)

/-- `ACK` (R152, R178, R185). -/
def execAck (s : State) : Host.Outcome State Fault Refusal := .next (sendRow .ack s)

end Sys2Proof.Machine
end

