-- ==== Sys2Proof/Machine/OutboundOps.lean ====
section
/-! DEFINITION. The outbound value encoder (44_outbound_encoder.md, R250 to R261): operand fetch, unit, write, liveness. -/

namespace Sys2Proof.Machine

/-- Write one outbound unit; a short count loses the link (R257, R258). -/
def sendUnit (s : State) (unit : List Byte) : State :=
  let w := s.txWrite unit
  if shortWrite w.1 unit.length then w.2.loseLink w.1 else w.2

/-- A unit of profile `p` is sent only by a device of that profile while the link is `Connected` (R250, R252, R254, R260). -/
def State.encoderReady (s : State) (p : Profile) : Bool := s.link == .connected && s.profile == p

/-- `DATA_GENERIC` with value byte `d` (R252). -/
def sendGeneric (d : Byte) (s : State) : State := if s.encoderReady .generic then sendUnit s (genericUnit d) else s

/-- `DATA_EV3` with header `hdr` and value bytes `lo`, `hi` (R254). -/
def sendEv3 (hdr lo hi : Byte) (s : State) : State :=
  if s.encoderReady .ev3Compatible then sendUnit s (ev3Unit hdr lo hi) else s

/-- The bytes of the outbound unit of a device: one read of `value`, one of `mode` (R251, R252, R254, R261). -/
def outboundUnit (p : Profile) (value : Value) (mode : ModeNum) : List Byte :=
  match p with
  | .generic => genericUnit (lowByte value)
  | .ev3Compatible => ev3Unit (ev3Header mode) (lowByte value) (highByte value)

/-- The outbound row the encoder transmits in a state, its operands fetched from `value` and `mode` (R251, R252, R254). -/
def outboundInstr (s : State) : Instr :=
  match s.profile with
  | .generic => .dataGeneric (lowByte s.value) (checksum [0xC0, lowByte s.value])
  | .ev3Compatible =>
    .dataEv3 (ev3ModeBits s.mode) (lowByte s.value) (highByte s.value)
      (checksum [ev3Header s.mode, lowByte s.value, highByte s.value])

/-- `send()`, the second half of a tick (R250, R280). -/
def send (s : State) : State :=
  match s.profile with
  | .generic => sendGeneric (lowByte s.value) s
  | .ev3Compatible => sendEv3 (ev3Header s.mode) (lowByte s.value) (highByte s.value) s

end Sys2Proof.Machine
end

