-- ==== Sys2Proof/Machine/ParserOps.lean ====
section
/-! DEFINITION. The receive parser as a byte machine on `ph` (43_inbound_parser.md, R211 to R231), one definition per phase, and
the drain. -/

namespace Sys2Proof.Machine

/-- `P_IDLE`: dispatch on the leading byte (R213, R214, R218, R228, R231). -/
def parseIdle (s : State) (b : Byte) : State :=
  if b = 0x00 ∨ b = 0x02 then s
  else if b = 0x43 then { s with acc := 0xFF ^^^ 0x43, ph := .selM }
  else if b = 0x46 then { s with ph := .wdM0 }
  else if b = 0x4C then { s with acc := 0xFF ^^^ 0x4C, cnt := comboLen s.profile, idx := 0, ph := .cbPay }
  else s.emit (.unknown b)

/-- `P_SEL_M` (R215). -/
def parseSelM (s : State) (b : Byte) : State := { s with selM := b, acc := s.acc ^^^ b, ph := .selCk }

/-- `P_SEL_CK`: the checksum is tested before the range (R216, R313). -/
def parseSelCk (s : State) (b : Byte) : State :=
  if b = s.acc then
    if modeInRange s.selM then ({ s with mode := s.selM.setWidth 4, ph := .idle }).emit (.selected s.selM)
    else ({ s with ph := .idle }).emit (.droppedSelectRange s.selM)
  else ({ s with ph := .idle }).emit (.droppedSelectChecksum s.selM)

/-- `P_WD_M0` (R219). -/
def parseWdM0 (s : State) (b : Byte) : State := { s with m0 := b, ph := .wdM1 }

/-- `P_WD_M1`: accepted marker pair or the message is abandoned (R220, R108). -/
def parseWdM1 (s : State) (b : Byte) : State :=
  if markersAccepted s.profile s.m0 b then { s with bank := bankOf s.m0, ph := .wdSm }
  else ({ s with ph := .idle }).emit (.droppedMarkerMismatch s.m0 b)

/-- `P_WD_SM`: size/mode byte (R221). -/
def parseWdSm (s : State) (b : Byte) : State :=
  { s with sm := b, acc := 0xFF ^^^ b, cnt := declaredLength b, idx := 0, stage := spaces13, ph := .wdPay }

/-- `P_WD_PAY`: a payload byte; beyond index 12 it enters the checksum and is not stored (R222, R223). -/
def parseWdPay (s : State) (b : Byte) : State :=
  { s with
    stage := s.stage.setIfInBounds s.idx b
    acc := s.acc ^^^ b
    idx := s.idx + 1
    cnt := s.cnt - 1
    ph := if s.cnt - 1 = 0 then .wdCk else .wdPay }

/-- `P_WD_CK`: commit or drop (R224, R225). -/
def parseWdCk (s : State) (b : Byte) : State :=
  if b = s.acc then ({ s with text := s.stage, ph := .idle }).emit (.writeData (wmode s.sm s.bank) (declaredLength s.sm))
  else ({ s with ph := .idle }).emit (.droppedWriteChecksum s.sm)

/-- `P_CB_PAY` (R229). -/
def parseCbPay (s : State) (b : Byte) : State :=
  { s with
    cb := s.cb.setIfInBounds s.idx b
    acc := s.acc ^^^ b
    idx := s.idx + 1
    cnt := s.cnt - 1
    ph := if s.cnt - 1 = 0 then .cbCk else .cbPay }

/-- `P_CB_CK` (R229, R230). -/
def parseCbCk (s : State) (b : Byte) : State :=
  if b = s.acc then ({ s with ph := .idle }).emit (.comboAccepted (s.cb.toList.take (comboLen s.profile)))
  else ({ s with ph := .idle }).emit .droppedComboChecksum

/-- `parse_byte(b)`: the rule selected by the phase (R211, R232). -/
def parseByte (s : State) (b : Byte) : State :=
  match s.ph with
  | .idle => parseIdle s b
  | .selM => parseSelM s b
  | .selCk => parseSelCk s b
  | .wdM0 => parseWdM0 s b
  | .wdM1 => parseWdM1 s b
  | .wdSm => parseWdSm s b
  | .wdPay => parseWdPay s b
  | .wdCk => parseWdCk s b
  | .cbPay => parseCbPay s b
  | .cbCk => parseCbCk s b

/-- The byte machine over a byte string. -/
def parseBytes (s : State) (bs : List Byte) : State := bs.foldl parseByte s

/-- The loop of the drain: pop the oldest byte, parse it, until there is none (R211). The list is the FIFO's content. -/
def drainLoop : List Byte → State → State
  | [], s => s
  | b :: rest, s => drainLoop rest (parseByte { s with rxFifo := rest } b)

/-- `end_of_drain()`: a message in progress is truncated (R212). -/
def endOfDrain (s : State) : State :=
  if s.ph = .idle then s else { s.emit (.truncated s.ph) with ph := .idle }

/-- `drain()` (R211). -/
def drain (s : State) : State := endOfDrain (drainLoop s.rxFifo { s with ph := .idle })

/-- The parser takes a leading byte only while the link is `Connected` and no message is in progress (R103, R210). -/
def State.parserReady (s : State) : Bool := s.link == .connected && s.ph == .idle

/-- A whole message of steady state whose bytes were popped from the FIFO; outside its context it is not parsed (R210). -/
def State.takeMessage (s : State) (bs : List Byte) : State := if s.parserReady then parseBytes s bs else s

end Sys2Proof.Machine
end

