-- ==== Sys2Proof/Machine/HostOps.lean ====
section
/-! DEFINITION. Meanings of the host operations (45_connection_and_host_ops.md) and of the events ms (R171), rx (R62), reset
(R340). -/

namespace Sys2Proof.Machine

/-- `connect`: starts a handshake in `Disconnected`, is ignored elsewhere (R276). -/
def execConnect (s : State) : Host.Outcome State Fault Refusal :=
  .next (if s.link = .disconnected then startHandshake s else s)

/-- `tick`: drain, then send, in `Connected`; nothing elsewhere (R280). -/
def execTick (s : State) : Host.Outcome State Fault Refusal :=
  .next (if s.link = .connected then send (drain s) else s)

/-- `set_value(v)`: the low 16 bits in one step (R282). -/
def execSetValue (v : Int) (s : State) : Host.Outcome State Fault Refusal := .next { s with value := valueOf v }

/-- `get_mode` (R283). -/
def execGetMode (s : State) : Host.Outcome State Fault Refusal := .next (s.answer (.mode s.mode))

/-- `is_connected` (R284). -/
def execIsConnected (s : State) : Host.Outcome State Fault Refusal := .next (s.answer (.connected (isConnectedFlag s.link)))

/-- `get_text` (R285). -/
def execGetText (s : State) : Host.Outcome State Fault Refusal := .next (s.answer (.text s.text))

/-- `ms` (R171). -/
def execMs (s : State) : Host.Outcome State Fault Refusal := .next (millisecond s)

/-- `rx(b)` (R62). -/
def execRx (b : Byte) (s : State) : Host.Outcome State Fault Refusal := .next (s.receive b)

/-- `reset` (R340). -/
def execReset (s : State) : Host.Outcome State Fault Refusal := .next s.hardReset

end Sys2Proof.Machine
end

