-- ==== Sys2Proof/Machine/Inbound.lean ====
section
/-! DEFINITION. Meanings of the inbound messages of steady state (43_inbound_parser.md). The message's bytes have been popped
from the FIFO; the meaning is the byte machine over them. -/

namespace Sys2Proof.Machine

/-- `NOP0` (R213). -/
def execNop0 (s : State) : Host.Outcome State Fault Refusal := .next (s.takeMessage [0x00])

/-- `KEEPALIVE` (R213). -/
def execKeepalive (s : State) : Host.Outcome State Fault Refusal := .next (s.takeMessage [0x02])

/-- `SELECT` (R214 to R217). -/
def execSelect (m ck : Byte) (s : State) : Host.Outcome State Fault Refusal := .next (s.takeMessage [0x43, m, ck])

/-- `WRITE_DATA` (R218 to R227). -/
def execWriteData (m0 m1 : Byte) (data : Option DataFrame) (s : State) : Host.Outcome State Fault Refusal :=
  .next (s.takeMessage (0x46 :: m0 :: m1 :: (match data with | none => [] | some d => encodeDataFrame d)))

/-- `COMBO` (R228 to R230). -/
def execCombo (data : List Byte) (ck : Byte) (s : State) : Host.Outcome State Fault Refusal :=
  .next (s.takeMessage (0x4C :: data ++ [ck]))

/-- `UNKNOWN` (R231): reported, one byte consumed, no effect. -/
def execUnknown (b : Byte) (s : State) : Host.Outcome State Fault Refusal :=
  .next (if s.parserReady then s.emit (.unknown b) else s)

end Sys2Proof.Machine
end

