-- ==== Sys2Proof/Machine/Outbound.lean ====
section
/-! DEFINITION. Meanings of the two outbound units (44_outbound_encoder.md). The checksum byte is computed, never taken from the
row's operand (R252, R254). -/

namespace Sys2Proof.Machine

/-- `DATA_GENERIC` (R252). -/
def execDataGeneric (d _ck : Byte) (s : State) : Host.Outcome State Fault Refusal := .next (sendGeneric d s)

/-- `DATA_EV3` (R254). -/
def execDataEv3 (k : BitVec 3) (lo hi _ck : Byte) (s : State) : Host.Outcome State Fault Refusal :=
  .next (sendEv3 (ev3HeaderOf k) lo hi s)

end Sys2Proof.Machine
end

