-- ==== Sys2Proof/Machine/Dispatch.lean ====
section
/-! DEFINITION. Every instruction's meaning, one arm per constructor. -/

namespace Sys2Proof.Machine

def exec (i : Instr) (s : State) : Host.Outcome State Fault Refusal :=
  match i with
  -- inbound, steady state
  | .nop0 => Sys2Proof.Machine.execNop0 s
  | .keepalive => Sys2Proof.Machine.execKeepalive s
  | .select m ck => Sys2Proof.Machine.execSelect m ck s
  | .writeData m0 m1 data => Sys2Proof.Machine.execWriteData m0 m1 data s
  | .combo data ck => Sys2Proof.Machine.execCombo data ck s
  | .unknown b => Sys2Proof.Machine.execUnknown b s
  -- inbound, handshake
  | .ackEcho => Sys2Proof.Machine.execAckEcho s
  | .ackwaitDiscard b => Sys2Proof.Machine.execAckwaitDiscard b s
  -- outbound, handshake ROM
  | .sync => Sys2Proof.Machine.execSync s
  | .type header payload => Sys2Proof.Machine.execType header payload s
  | .modes header payload => Sys2Proof.Machine.execModes header payload s
  | .speed header payload => Sys2Proof.Machine.execSpeed header payload s
  | .version header payload => Sys2Proof.Machine.execVersion header payload s
  | .infoName header payload => Sys2Proof.Machine.execInfoName header payload s
  | .infoRaw header payload => Sys2Proof.Machine.execInfoRaw header payload s
  | .infoPct header payload => Sys2Proof.Machine.execInfoPct header payload s
  | .infoSi header payload => Sys2Proof.Machine.execInfoSi header payload s
  | .infoSymbol header payload => Sys2Proof.Machine.execInfoSymbol header payload s
  | .infoMapping header payload => Sys2Proof.Machine.execInfoMapping header payload s
  | .infoFormat header payload => Sys2Proof.Machine.execInfoFormat header payload s
  | .ack => Sys2Proof.Machine.execAck s
  -- outbound, steady state
  | .dataGeneric d ck => Sys2Proof.Machine.execDataGeneric d ck s
  | .dataEv3 k lo hi ck => Sys2Proof.Machine.execDataEv3 k lo hi ck s
  -- host operations
  | .connect => Sys2Proof.Machine.execConnect s
  | .tick => Sys2Proof.Machine.execTick s
  | .setValue v => Sys2Proof.Machine.execSetValue v s
  | .getMode => Sys2Proof.Machine.execGetMode s
  | .isConnected => Sys2Proof.Machine.execIsConnected s
  | .getText => Sys2Proof.Machine.execGetText s
  | .ms => Sys2Proof.Machine.execMs s
  | .rx b => Sys2Proof.Machine.execRx b s
  | .reset => Sys2Proof.Machine.execReset s
  -- codec functions
  | .checksum bytes => Sys2Proof.Machine.execChecksum bytes s
  | .buildFrame header payload => Sys2Proof.Machine.execBuildFrame header payload s
  | .verifyFrame received => Sys2Proof.Machine.execVerifyFrame received s

end Sys2Proof.Machine
end

