-- ==== Sys2Proof/Machine/Fetch.lean ====
section
/-! DEFINITION. Where the next instruction comes from: the environment's next event (R12, R80), and how a given instruction is
placed so that the next step runs it. -/

namespace Sys2Proof.Machine

/-- The host operation an event stands for. -/
def Event.instr : Event → Instr
  | .connect => .connect
  | .tick => .tick
  | .setValue v => .setValue v
  | .getMode => .getMode
  | .isConnected => .isConnected
  | .getText => .getText
  | .ms => .ms
  | .rx b => .rx b
  | .reset => .reset

/-- The next event and the state without it; none when the environment delivers nothing. -/
def State.nextEvent (s : State) : Option (Event × State) :=
  match s.inputs with
  | [] => none
  | e :: rest => some (e, { s with inputs := rest })

/-- A `Connected` device of profile `p` whose FIFO holds exactly `bs`, about to be ticked, with a transport that will take the
whole unit: the drain runs the message in `bs` first (R211). -/
def State.placeMessage (s : State) (p : Profile) (bs : List Byte) : State :=
  { s with
    cfg := { s.cfg with profile := p }, link := .connected, line := .uart, baud := finalBaud, hsStep := .idle, ph := .idle
    rxFifo := bs, inputs := .tick :: s.inputs, txAnswers := txLen p :: s.txAnswers }

/-- A device in its ACK wait, one millisecond before a poll that will read `b` (R186). -/
def State.placePolled (s : State) (b : Byte) : State :=
  { s with
    link := .handshaking, line := .uart, hsStep := .ackWait, hsTimer := 1
    rxFifo := [b], inputs := .ms :: s.inputs }

/-- A device in the gap before the ROM entry at index `k` of `len` bytes, one millisecond before its send step (R181), with a
transport that will take the whole entry. -/
def State.placeRomEntry (s : State) (k len : Nat) : State :=
  { s with
    link := .handshaking, line := .uart, baud := initBaud s.profile, hsStep := .gap, hsTimer := 1, romPtr := k
    inputs := .ms :: s.inputs, txAnswers := len :: s.txAnswers }

/-- A `Connected` device about to be ticked with an empty FIFO and the unit's operands in `value` and `mode` (R251). -/
def State.placeUnit (s : State) (p : Profile) (value : Value) (mode : ModeNum) : State :=
  { s.placeMessage p [] with value := value, mode := mode }

/-- Put an instruction where the next step meets it. A host operation becomes the next event. The bytes of a ROM frame are the
device's constants, so a ROM row is met at the first index that holds that very row, and where there is none nothing is placed;
a codec function is no event of its own (R12). -/
def State.placeInstr (s : State) (p : Profile) (i : Instr) : State :=
  match i with
  | .nop0 | .keepalive | .select _ _ | .writeData _ _ _ | .combo _ _ | .unknown _ => s.placeMessage p (encode i)
  | .ackEcho => s.placePolled ackByte
  | .ackwaitDiscard b => s.placePolled b
  | .sync | .type _ _ | .modes _ _ | .speed _ _ | .version _ _ | .infoName _ _ | .infoRaw _ _ | .infoPct _ _ | .infoSi _ _
  | .infoSymbol _ _ | .infoMapping _ _ | .infoFormat _ _ | .ack =>
    match (romProgram s.cfg.rom).findIdx? (fun l => l.instr == i) with
    | some k => s.placeRomEntry k (encode i).length
    | none => s
  | .dataGeneric d _ => s.placeUnit .generic (d.setWidth 16) s.mode
  | .dataEv3 k lo hi _ => s.placeUnit .ev3Compatible (hi ++ lo) (k.setWidth 4)
  | .connect => { s with inputs := .connect :: s.inputs }
  | .tick => { s with inputs := .tick :: s.inputs }
  | .setValue v => { s with inputs := .setValue v :: s.inputs }
  | .getMode => { s with inputs := .getMode :: s.inputs }
  | .isConnected => { s with inputs := .isConnected :: s.inputs }
  | .getText => { s with inputs := .getText :: s.inputs }
  | .ms => { s with inputs := .ms :: s.inputs }
  | .rx b => { s with inputs := .rx b :: s.inputs }
  | .reset => { s with inputs := .reset :: s.inputs }
  | .checksum _ | .buildFrame _ _ | .verifyFrame _ => s

/-- A numbered table word as an instruction in the place where the next step meets it. -/
def State.placeTableWord (s : State) (nbits w : Nat) : State :=
  match decodeTableWord nbits w with
  | none => s
  | some i => s.placeInstr (tableContext (tableBytes nbits w)).1 i

end Sys2Proof.Machine
end

