-- ==== Sys2Proof/Machine/Step.lean ====
section
/-! DEFINITION. One step of the machine: one event of R12, to completion (R80). -/

namespace Sys2Proof.Machine

/-- One step: the environment's next event is performed as a whole. With no event to come the engine is idle and holds its state
(R330). -/
def step (s : State) : Host.Outcome State Fault Refusal :=
  match s.nextEvent with
  | none => .next s
  | some (e, t) => exec e.instr t

/-- The state whose next step meets the instruction of a numbered table word. -/
def State.withFetchWord (s : State) (nbits w : Nat) : State := s.placeTableWord nbits w

end Sys2Proof.Machine
end

