-- ==== Sys2Proof/Machine/DrainFn.lean ====
section
/-! DEFINITION. The drain as a function of the byte list (R240). The machine runs the byte machine of ParserOps; R241 says that
the two agree. -/

namespace Sys2Proof.Machine

/-- What the drain leaves: mode, text, events (R240). -/
structure DrainResult where
  mode   : ModeNum
  text   : Text
  events : List Diag
  deriving DecidableEq, Repr

/-- A `SELECT` over mode, text and events (R240, case 0x43). -/
def DrainResult.select (r : DrainResult) (m ck : Byte) : DrainResult :=
  if ck = checksum [0x43, m] then
    if m.toNat ≤ 15 then { r with mode := m.setWidth 4, events := r.events ++ [.selected m] }
    else { r with events := r.events ++ [.droppedSelectRange m] }
  else { r with events := r.events ++ [.droppedSelectChecksum m] }

/-- A `WRITE_DATA` over mode, text and events (R240, case 0x46). -/
def DrainResult.writeData (r : DrainResult) (m0 m1 : Byte) : Option DataFrame → DrainResult
  | none => { r with events := r.events ++ [.droppedMarkerMismatch m0 m1] }
  | some d =>
    if d.ck = checksum (d.sizeMode :: d.payload) then
      { r with
        text := padText d.payload
        events := r.events ++ [.writeData (wmode d.sizeMode (m0 == 0x01)) (declaredLength d.sizeMode)] }
    else { r with events := r.events ++ [.droppedWriteChecksum d.sizeMode] }

/-- A `COMBO` over mode, text and events (R240, case 0x4C). -/
def DrainResult.combo (r : DrainResult) (data : List Byte) (ck : Byte) : DrainResult :=
  if ck = checksum (0x4C :: data) then { r with events := r.events ++ [.comboAccepted data] }
  else { r with events := r.events ++ [.droppedComboChecksum] }

/-- One message over mode, text and events (R240, R235). An instruction that is no message of steady state changes nothing. -/
def DrainResult.message (r : DrainResult) : Instr → DrainResult
  | .select m ck => r.select m ck
  | .writeData m0 m1 data => r.writeData m0 m1 data
  | .combo data ck => r.combo data ck
  | .unknown b => { r with events := r.events ++ [.unknown b] }
  | _ => r

/-- `drain_fn` with a bound on the number of messages (R240). -/
def drainMessages : Nat → Profile → DrainResult → List Byte → DrainResult
  | 0, _, r, _ => r
  | n + 1, p, r, bs =>
    match decodeSteady p bs with
    | .ok i rest => drainMessages n p (r.message i) rest
    | .rejected (.truncated ph) => { r with events := r.events ++ [.truncated ph] }
    | .rejected _ => r

/-- `drain_fn(profile, mode, text, bytes)` (R240): every message has at least one byte, so there are at most `len(bytes)`. -/
def drainFn (p : Profile) (mode : ModeNum) (text : Text) (bs : List Byte) : DrainResult :=
  drainMessages bs.length p ⟨mode, text, []⟩ bs

end Sys2Proof.Machine
end

