-- ==== Sys2Proof/Safety.lean ====
section
/-! DEFINITION. What counts as a legal state between two events (R33, R50), and the moves of the link state (R275). -/

namespace Sys2Proof.Machine

/-- What holds in each sequencer step between two events (R33, R34, R36, R37, R50, R173 to R192). `HS_SEND` stands only inside an
event. -/
def State.sequencerOk (s : State) : Bool :=
  match s.hsStep with
  | .idle => s.link != .handshaking && s.hsTimer == 0
  | .pulse1 =>
    s.link == .handshaking && s.line == .gpioLow && 1 ≤ s.hsTimer && s.hsTimer ≤ pulse1Ms s.profile && s.romPtr == 0
      && s.hsPolls == 0
  | .send => false
  | .gap =>
    s.link == .handshaking && s.line == .uart && s.baud == initBaud s.profile && 1 ≤ s.hsTimer && s.hsTimer ≤ 18
      && 1 ≤ s.romPtr && s.romPtr < s.romK && s.hsPolls == 0
  | .ackWait =>
    s.link == .handshaking && s.line == .uart && s.baud == initBaud s.profile && 1 ≤ s.hsTimer && s.hsTimer ≤ ackPollMs
      && s.romPtr == s.romK && s.hsPolls < ackPolls
  | .pulse2 =>
    s.link == .handshaking && s.line == .gpioLow && baudSwitch s.profile && 1 ≤ s.hsTimer && s.hsTimer ≤ pulse2Ms
      && s.romPtr == s.romK && 1 ≤ s.hsPolls

/-- The invariant of R50, with the ranges of R35 to R38. `mode` in 0..15 and the 13 bytes of `text` hold by type. -/
def State.inv (s : State) : Bool :=
  s.rxFifo.length ≤ s.cfg.rxDepth && s.ph == .idle && s.sequencerOk
    && (s.link != .connected || (s.line == .uart && s.baud == finalBaud))
    && s.romPtr ≤ s.romK && s.hsPolls ≤ ackPolls

/-- The state after a write of `bytes` that the transport answered with `n`: the write is on the transmit stream, the answer is
used up (R64, R65). The words statements use for a write. -/
def State.wrote (s : State) (bytes : List Byte) (n : Nat) : State :=
  { s with
    txLog := s.txLog ++ [⟨s.baud, bytes, n⟩]
    txAnswers := s.txAnswers.drop 1
    draws := if s.txAnswers = [] then s.draws + 1 else s.draws }

/-- The moves of the link state an event may cause (R271 to R275, R340): the table of R275. -/
def linkMoveAllowed : Event → Link → Link → Bool
  | .reset, _, b => b == .disconnected
  | .connect, .disconnected, b => b == .handshaking
  | .tick, .connected, .disconnected => true
  | .ms, .handshaking, .connected => true
  | .ms, .handshaking, .disconnected => true
  | _, a, b => a == b

end Sys2Proof.Machine
end

