-- ==== Sys2Proof/Certificates/Slice0/Obligations.lean ====
section
/-! DEFINITION. The statements for the provers. Each docstring names the rules of spec/ it formalises and, where it rests on a
choice, the decision of 92_eei_decisions.md or the log entry. -/

open Sys2Proof Sys2Proof.Machine

/-! ### The codec (40_codec.md) -/

/-- R130: the checksum is 0xFF folded by exclusive or with every byte, in whatever order they stand; `checksum` answers it and
changes nothing else. -/
def Obligations.ChecksumFoldsEveryByte : Prop :=
  ∀ (bytes : List Byte) (s : State),
    exec (.checksum bytes) s =
        .next { s with replies := s.replies ++ [.byte (bytes.foldr (fun b a => b ^^^ a) 0xFF)] }
      ∧ ∀ q, q.Perm bytes → exec (.checksum q) s = exec (.checksum bytes) s

/-- R140: the checksum of a concatenation, and of one byte more (what the accumulator computes). -/
def Obligations.ChecksumOfConcatenation : Prop :=
  ∀ a b : List Byte, ∀ x : Byte,
    Machine.checksum (a ++ b) = Machine.checksum a ^^^ Machine.checksum b ^^^ 0xFF
      ∧ Machine.checksum (a ++ [x]) = Machine.checksum a ^^^ x

/-- R131: `build_frame` answers header, payload, checksum of both, two bytes longer than the payload. -/
def Obligations.BuildFrameAppendsChecksum : Prop :=
  ∀ (h : Byte) (p : List Byte) (s : State),
    exec (.buildFrame h p) s =
        .next { s with replies := s.replies ++ [.bytes ([h] ++ p ++ [Machine.checksum ([h] ++ p)])] }
      ∧ (Machine.buildFrame h p).length = p.length + 2

/-- R132, R138: `verify_frame` answers true exactly of a non-empty string whose bytes, the checksum byte included, fold to 0xFF.
False of the empty string is decision D29. -/
def Obligations.VerifyFrameFoldsToAllOnes : Prop :=
  ∀ (r : List Byte) (s : State),
    exec (.verifyFrame r) s =
      .next { s with replies := s.replies ++ [.verdict (decide (r ≠ [] ∧ r.foldr (fun b a => b ^^^ a) 0 = 0xFF))] }

/-- R137: a built frame verifies. -/
def Obligations.BuiltFrameVerifies : Prop :=
  ∀ (h : Byte) (p : List Byte), Machine.verifyFrame (Machine.buildFrame h p) = true

/-- R139: one changed byte of a valid frame is detected; two bytes changed by the same mask are not. -/
def Obligations.ErrorDetectionOfTheChecksum : Prop :=
  ∀ r : List Byte, Machine.verifyFrame r = true →
    (∀ (i : Nat) (h : i < r.length) (b : Byte), b ≠ r[i] → Machine.verifyFrame (r.set i b) = false)
      ∧ ∀ (i j : Nat) (hi : i < r.length) (hj : j < r.length) (m : Byte), i ≠ j →
          Machine.verifyFrame ((r.set i (r[i] ^^^ m)).set j (r[j] ^^^ m)) = true

/-! ### Encoding (30_encoding.md) and the handshake ROM (41_advertisement.md) -/

/-- Decode and encode agree: in every context, for every well-formed instruction the context can hold, the decoder reads from its
bytes that instruction and leaves what stands behind them. A ROM entry is decoded whole, with nothing behind it. -/
def Obligations.DecodeOfEncodeIsTheInstruction : Prop :=
  ∀ (p : Profile) (c : Context) (i : Instr) (rest : List Byte),
    contextOf i = some c → wellFormed p i = true → ((∃ slot, c = .rom slot) → rest = []) →
      decode p c (encode i ++ rest) = .ok i rest

/-- Decoding drops no byte: what a context's decoder reads encodes back to the bytes read, is a row of that context and, but for
the outbound units whose checksum byte the decoder does not judge, is well formed. -/
def Obligations.DecodingDropsNoByte : Prop :=
  ∀ (p : Profile) (c : Context) (bs : List Byte) (i : Instr) (rest : List Byte),
    decode p c bs = .ok i rest →
      contextOf i = some c ∧ encode i ++ rest = bs ∧ (c ≠ .outbound → wellFormed p i = true)

/-- R107: every leading byte has a defined effect. Five values open their message, the other 251 are `UNKNOWN` and consume one
byte; where bytes are missing the message in progress is named, and no other rejection exists. -/
def Obligations.EveryLeadingByteHasADefinedEffect : Prop :=
  (∀ (p : Profile) (r : List Byte),
      decodeSteady p (0x00 :: r) = .ok .nop0 r
        ∧ decodeSteady p (0x02 :: r) = .ok .keepalive r
        ∧ decodeSteady p (0x43 :: r) = decodeSelect r
        ∧ decodeSteady p (0x46 :: r) = decodeWriteData p r
        ∧ decodeSteady p (0x4C :: r) = decodeCombo p r
        ∧ ∀ b : Byte, b ≠ 0x00 → b ≠ 0x02 → b ≠ 0x43 → b ≠ 0x46 → b ≠ 0x4C →
            decodeSteady p (b :: r) = .ok (.unknown b) r)
    ∧ (∀ (p : Profile) (b : Byte) (r : List Byte),
        (∃ i rest, decodeSteady p (b :: r) = .ok i rest)
          ∨ ∃ ph, ph ≠ .idle ∧ decodeSteady p (b :: r) = .rejected (.truncated ph))
    ∧ ((List.range 256).filter (fun n => !recognisedLeading (BitVec.ofNat 8 n))).length = 251

/-- Words written out from the spec's encodings decode to the rows they stand for (a sanity statement). -/
def Obligations.WordsOfTheSpecDecode : Prop :=
  decode .generic .steady [0x43, 0x03, 0xBF] = .ok (.select 0x03 0xBF) []
    ∧ decode .ev3Compatible .steady [0x46, 0x01, 0xB8, 0x0A, 0x48, 0x69, 0xD4]
        = .ok (.writeData 0x01 0xB8 (some ⟨0x0A, [0x48, 0x69], 0xD4⟩)) []
    ∧ decode .generic .steady [0x46, 0x01, 0xB8, 0x0A] = .ok (.writeData 0x01 0xB8 none) [0x0A]
    ∧ decode .ev3Compatible .steady [0x4C, 0x01, 0x02, 0xB0] = .ok (.combo [0x01, 0x02] 0xB0) []
    ∧ decode .generic .ackWait [0x04] = .ok .ackEcho []
    ∧ decode .generic (.rom .type) [0x40, 0x23, 0x9C] = .ok (.type 0x40 [0x23]) []
    ∧ decode .generic .outbound [0xC0, 0x05, 0x3A] = .ok (.dataGeneric 0x05 0x3A) []
    ∧ decode .ev3Compatible .outbound [0x46, 0x00, 0xB9, 0xC9, 0x2C, 0x01, 0x1B] = .ok (.dataEv3 1 0x2C 0x01 0x1B) []

/-- R150 to R158: the shape of every handshake ROM. First SYNC, last ACK with gap 0, every other entry a valid frame of at least
three bytes, gaps of 1 to 18 ms, `K = 6 + 7 * NMODES`. -/
def Obligations.RomEntriesHaveTheirShape : Prop :=
  ∀ r : Rom,
    (romEntries r).length = 6 + 7 * r.groups.length
      ∧ (∃ g, (romEntries r).head? = some ([0x00], g))
      ∧ (romEntries r).getLast? = some ([0x04], 0)
      ∧ (∀ (i : Nat) (e : List Byte × Nat), 0 < i → i + 1 < (romEntries r).length → (romEntries r)[i]? = some e →
          Machine.verifyFrame e.1 = true ∧ 3 ≤ e.1.length)
      ∧ ∀ (i : Nat) (e : List Byte × Nat), i + 1 < (romEntries r).length → (romEntries r)[i]? = some e → 1 ≤ e.2 ∧ e.2 ≤ 18

/-- U1, for the rules that hold of both profiles (R152 to R154, R157, R158): a list of entries is accepted as a ROM exactly when it
is the entry list of that ROM; every other list is refused. The profile's own rules: `RomIsRefusedByItsProfile`. -/
def Obligations.IllFormedRomIsRefused : Prop :=
  ∀ (es : List (List Byte × Nat)) (r : Rom), romOfEntries? es = some r ↔ romEntries r = es

/-- U1, for the rules of one profile (R155, R156): a list of entries is accepted as `HS_SEQ[p]` exactly when it is the entry list of
a ROM whose groups are those of a complete mode table of `p` in their order; a Generic list of fewer than four modes is refused. That
places alone say which group is which mode is log entry 7. -/
def Obligations.RomIsRefusedByItsProfile : Prop :=
  ∀ (p : Profile) (es : List (List Byte × Nat)) (r : Rom),
    (hsSeqOfEntries? p es = some r ↔
        romEntries r = es ∧ ∃ t, tableProfile t = p ∧ tableComplete t = true ∧ r.groups = tableGroups t)
      ∧ (r.groups.length < 4 → hsSeqOfEntries? .generic (romEntries r) = none)

/-- R155, R156, R159: the order of the mode groups in a ROM made from a complete mode table. Generic: the first four groups are those
of the four array modes, each once, the others the domain-specific modes in order, and the array modes have the four highest mode
numbers. Ev3Compatible: a group describes the mode whose number its place in the transmission gives, the highest first and mode 0
last. -/
def Obligations.ModeGroupsStandInTheirOrder : Prop :=
  ∀ (r : Rom) (t : ModeTable), r.groups = tableGroups t → tableComplete t = true →
    match t with
    | .generic arrays domain =>
        arrayGroups .generic r = arrays.map (fun a => a.2) ∧ ownGroups .generic r = domain ∧ arrays.length = 4
          ∧ (∀ m : ArrayMode, ∃ (i : Nat) (g : ModeGroup), arrays[i]? = some (m, g) ∧ r.groups[i]? = some g
              ∧ modeOfGroup? r i = some (domain.length + 3 - i) ∧ ∀ j h, arrays[j]? = some (m, h) → j = i)
          ∧ ∀ i : Nat, domain[i]? = r.groups[i + 4]?
    | .ev3Compatible byNumber =>
        ∀ (n : Nat) (g : ModeGroup), byNumber[n]? = some g →
          ∃ i, r.groups[i]? = some g ∧ modeOfGroup? r i = some n ∧ i + n + 1 = byNumber.length

/-! ### The inbound parser (43_inbound_parser.md) -/

/-- R213: the filler 0x00 and the keep-alive 0x02 consume their one byte and have no effect. -/
def Obligations.FillerAndKeepaliveHaveNoEffect : Prop :=
  ∀ s : State, s.link = .connected → s.ph = .idle →
    exec .nop0 s = .next s ∧ exec .keepalive s = .next s
      ∧ ∀ rest, decodeSteady s.profile (0x00 :: rest) = .ok .nop0 rest
          ∧ decodeSteady s.profile (0x02 :: rest) = .ok .keepalive rest

/-- R214 to R216: a SELECT with a good checksum and a mode byte up to 15 sets the mode, any other is dropped (above 15 by decision
D10), and nothing else but the parser's scratch and the event changes. -/
def Obligations.SelectSetsTheMode : Prop :=
  ∀ (s : State) (m ck : Byte), s.link = .connected → s.ph = .idle →
    exec (.select m ck) s = .next { s with
      selM := m
      acc := 0xFF ^^^ 0x43 ^^^ m
      mode := if ck = 0xFF ^^^ 0x43 ^^^ m ∧ m.toNat ≤ 15 then BitVec.ofNat 4 m.toNat else s.mode
      diag := s.diag ++
        [if ck = 0xFF ^^^ 0x43 ^^^ m then if m.toNat ≤ 15 then .selected m else .droppedSelectRange m
         else .droppedSelectChecksum m] }

/-- R218 to R226 (D12 to D15): a WRITE-DATA with accepted markers and the declared payload length. A good checksum commits the
payload, cut or padded with spaces to 13 bytes, to `text`; a bad one leaves `text`. `mode` is not written. That a space is 0x20
is decision D30 (R26; PRESUMED, log entry 12). -/
def Obligations.WriteDataCommitsTheWholeText : Prop :=
  ∀ (s : State) (m0 m1 : Byte) (d : DataFrame), s.link = .connected → s.ph = .idle →
    wellFormed s.profile (.writeData m0 m1 (some d)) = true →
    exec (.writeData m0 m1 (some d)) s = .next { s with
        m0 := m0
        bank := m0 == 0x01
        sm := d.sizeMode
        acc := Machine.checksum (d.sizeMode :: d.payload)
        cnt := 0
        idx := d.payload.length
        stage := Vector.ofFn (fun k => (d.payload[k.val]?).getD 0x20)
        text := if d.ck = Machine.checksum (d.sizeMode :: d.payload) then Vector.ofFn (fun k => (d.payload[k.val]?).getD 0x20)
                else s.text
        diag := s.diag ++
          [if d.ck = Machine.checksum (d.sizeMode :: d.payload)
           then .writeData ((d.sizeMode.toNat % 8) + if m0 = 0x01 then 8 else 0) (2 ^ (d.sizeMode.toNat / 8 % 8))
           else .droppedWriteChecksum d.sizeMode] }

/-- R108, R220 (D11): markers the profile does not accept end the message after three bytes and change nothing but the scratch
byte and the event. -/
def Obligations.RefusedMarkersEndTheMessage : Prop :=
  ∀ (s : State) (m0 m1 : Byte), s.link = .connected → s.ph = .idle →
    ¬ (m0 = 0x00 ∧ m1 = 0xB9) → ¬ (s.profile = .ev3Compatible ∧ m0 = 0x01 ∧ m1 = 0xB8) →
    exec (.writeData m0 m1 none) s = .next { s with m0 := m0, diag := s.diag ++ [.droppedMarkerMismatch m0 m1] }

/-- R228 to R230: a COMBO of the profile's length changes the parser's scratch and is reported, accepted or dropped by its
checksum; no other field changes. -/
def Obligations.ComboChangesNothingElse : Prop :=
  ∀ (s : State) (data : List Byte) (ck : Byte), s.link = .connected → s.ph = .idle →
    data.length = (match s.profile with | .generic => 1 | .ev3Compatible => 2) →
    exec (.combo data ck) s = .next { s with
      acc := Machine.checksum (0x4C :: data)
      cnt := 0
      idx := data.length
      cb := Vector.ofFn (fun k => (data[k.val]?).getD s.cb[k])
      diag := s.diag ++ [if ck = Machine.checksum (0x4C :: data) then .comboAccepted data else .droppedComboChecksum] }

/-- R231: an unrecognised leading byte consumes one byte, is reported and changes no state. -/
def Obligations.UnknownByteIsReportedOnly : Prop :=
  ∀ (s : State) (b : Byte), s.link = .connected → s.ph = .idle →
    b ≠ 0x00 → b ≠ 0x02 → b ≠ 0x43 → b ≠ 0x46 → b ≠ 0x4C →
    exec (.unknown b) s = .next { s with diag := s.diag ++ [.unknown b] }
      ∧ ∀ rest, decodeSteady s.profile (b :: rest) = .ok (.unknown b) rest

/-- R210: outside `Connected` no message is parsed. -/
def Obligations.NoMessageIsParsedOutsideConnected : Prop :=
  ∀ s : State, s.link ≠ .connected →
    exec .nop0 s = .next s ∧ exec .keepalive s = .next s
      ∧ (∀ m ck, exec (.select m ck) s = .next s)
      ∧ (∀ m0 m1 d, exec (.writeData m0 m1 d) s = .next s)
      ∧ (∀ data ck, exec (.combo data ck) s = .next s)
      ∧ ∀ b, exec (.unknown b) s = .next s

/-- The drain runs the decoded message (R211, R213 to R231): where the FIFO's bytes decode to an instruction, the loop does what
`exec` of it does and goes on with the bytes behind it; where they end inside a message, the loop ends in the phase named, with
`mode` and `text` as they were. -/
def Obligations.DrainRunsTheDecodedMessage : Prop :=
  ∀ (s : State) (bs : List Byte), s.link = .connected → s.ph = .idle →
    (∀ (i : Instr) (rest : List Byte), decodeSteady s.profile bs = .ok i rest →
        ∃ t, exec i s = .next t ∧ t.link = .connected ∧ t.ph = .idle ∧ t.cfg = s.cfg
          ∧ drainLoop bs s = drainLoop rest { t with rxFifo := rest })
      ∧ ∀ ph, decodeSteady s.profile bs = .rejected (.truncated ph) →
          (drainLoop bs s).ph = ph ∧ (drainLoop bs s).mode = s.mode ∧ (drainLoop bs s).text = s.text
            ∧ (drainLoop bs s).diag = s.diag

/-- R241: the byte machine of R211 and the function of R240 agree on mode, text and events, for every state; the FIFO is left
empty, the parser idle, and every field but the parser's scratch as it was. -/
def Obligations.DrainAgreesWithDrainFunction : Prop :=
  ∀ s : State,
    (drain s).mode = (drainFn s.profile s.mode s.text s.rxFifo).mode
      ∧ (drain s).text = (drainFn s.profile s.mode s.text s.rxFifo).text
      ∧ (drain s).diag = s.diag ++ (drainFn s.profile s.mode s.text s.rxFifo).events
      ∧ (drain s).rxFifo = [] ∧ (drain s).ph = .idle
      ∧ { drain s with
          mode := s.mode, text := s.text, diag := s.diag, rxFifo := s.rxFifo, ph := s.ph, acc := s.acc, cnt := s.cnt
          idx := s.idx, bank := s.bank, m0 := s.m0, sm := s.sm, selM := s.selM, cb := s.cb, stage := s.stage } = s

/-! ### The handshake (42_handshake.md) -/

/-- R173, R174, R276 (D5, D6): `connect` in `Disconnected` starts a handshake with the session reset; elsewhere it is ignored.
R174 says `SPACES13`; that its byte is 0x20 is decision D30 (R26; PRESUMED, log entry 12). -/
def Obligations.ConnectStartsAHandshake : Prop :=
  ∀ s : State,
    (s.link = .disconnected →
      exec .connect s = .next { s with
        link := .handshaking, mode := 0, text := Vector.replicate 13 0x20, ph := .idle, romPtr := 0, hsPolls := 0
        line := .gpioLow, hsTimer := match s.profile with | .generic => 500 | .ev3Compatible => 410
        hsStep := .pulse1 })
      ∧ (s.link ≠ .disconnected → exec .connect s = .next s)

/-- R171, R175, R181, R186, R191: outside a handshake a millisecond changes nothing; inside one it takes one off a delay that has
more than one left. -/
def Obligations.MillisecondCountsADelayDown : Prop :=
  ∀ s : State,
    (s.hsStep = .idle → exec .ms s = .next s)
      ∧ (s.hsStep ≠ .idle → 1 < s.hsTimer → exec .ms s = .next { s with hsTimer := s.hsTimer - 1 })

/-- R176 to R178 (D8, D32): at the end of the first pulse the line is opened at the initial baud rate with an empty FIFO, and in
the same event SYNC, the ROM's entry 0, is executed. -/
def Obligations.FirstPulseEndsInSync : Prop :=
  ∀ s : State, s.hsStep = .pulse1 → s.hsTimer = 1 → s.romPtr = 0 →
    exec .ms s = exec .sync { s with
      hsTimer := 0, line := .uart, baud := (match s.profile with | .generic => .b2400 | .ev3Compatible => .b115200)
      rxFifo := [], hsStep := .send }

/-- R178, R181: at the end of a gap the entry at the ROM pointer is fetched and executed in the same event; its bytes decode, in
its slot, to that instruction. -/
def Obligations.GapEndRunsTheRomEntry : Prop :=
  ∀ (s : State) (l : RomLine), s.hsStep = .gap → s.hsTimer = 1 → s.romLine? = some l →
    exec .ms s = exec l.instr { s with hsTimer := 0, hsStep := .send }
      ∧ decode s.profile (.rom l.slot) (encode l.instr) = .ok l.instr []

/-- R178 to R180, R185: each of the thirteen ROM rows, in the send step and at the ROM pointer, is offered as one write. A whole
write goes on to the gap or, after the last entry, to the ACK wait; a short one fails the handshake. The count is the
transport's. -/
def Obligations.RomRowIsOneWrite : Prop :=
  ∀ (s : State) (slot : RomSlot) (h : Byte) (p : List Byte) (gap n : Nat) (bytes : List Byte), s.hsStep = .send →
    s.romLine? = some ⟨slot, romInstr slot h p, gap⟩ →
    bytes = (match slot with | .sync => [0x00] | .ack => [0x04] | _ => [h] ++ p ++ [Machine.checksum ([h] ++ p)]) →
    n = s.txCount bytes.length →
    n ≤ bytes.length
      ∧ (n = bytes.length → s.romPtr + 1 < s.romK →
          exec (romInstr slot h p) s =
            .next { s.wrote bytes n with romPtr := s.romPtr + 1, hsTimer := gap, hsStep := .gap })
      ∧ (n = bytes.length → s.romPtr + 1 = s.romK →
          exec (romInstr slot h p) s =
            .next { s.wrote bytes n with romPtr := s.romPtr + 1, hsPolls := 0, hsTimer := 5, hsStep := .ackWait })
      ∧ (n < bytes.length →
          exec (romInstr slot h p) s =
            .next { s.wrote bytes n with
              link := .disconnected, connectOk := false, hsStep := .idle, hsTimer := 0
              diag := s.diag ++ [.handshakeWriteFail s.romPtr n, .connectDone false] })

/-- R178, R260: outside the send step, or with another row at the ROM pointer, a ROM row transmits nothing and changes nothing
(log entry 9). -/
def Obligations.RomRowsNeedTheSendStep : Prop :=
  ∀ (s : State) (slot : RomSlot) (h : Byte) (p : List Byte),
    (s.hsStep ≠ .send ∨ ∀ l, s.romLine? = some l → l.instr ≠ romInstr slot h p) →
    exec (romInstr slot h p) s = .next s

/-- R186, R188 (D17): a poll of the ACK wait is counted and reads at most one byte. With none it waits on or, at poll 400, times
out; a byte is executed as `ACK_ECHO` or `ACKWAIT_DISCARD`. -/
def Obligations.PollReadsAtMostOneByte : Prop :=
  ∀ s : State, s.hsStep = .ackWait → s.hsTimer = 1 →
    (s.rxFifo = [] → s.hsPolls + 1 ≠ 400 →
      exec .ms s = .next { s with hsTimer := 5, hsPolls := s.hsPolls + 1 })
      ∧ (s.rxFifo = [] → s.hsPolls + 1 = 400 →
          exec .ms s = .next { s with
            hsTimer := 0, hsPolls := 400, link := .disconnected, connectOk := false, hsStep := .idle
            diag := s.diag ++ [.handshakeTimeout, .connectDone false] })
      ∧ ∀ (b : Byte) (rest : List Byte), s.rxFifo = b :: rest →
          exec .ms s =
            exec (if b = 0x04 then .ackEcho else .ackwaitDiscard b)
              { s with hsTimer := 0, hsPolls := s.hsPolls + 1, rxFifo := rest }

/-- R189, R190, R192: the hub's 0x04 starts the second pulse on Generic and connects Ev3Compatible; bytes behind it stay in the
FIFO. -/
def Obligations.AckEchoSwitchesBaudOrConnects : Prop :=
  ∀ s : State, s.hsStep = .ackWait →
    (s.profile = .generic → exec .ackEcho s = .next { s with line := .gpioLow, hsTimer := 10, hsStep := .pulse2 })
      ∧ (s.profile = .ev3Compatible →
          exec .ackEcho s = .next { s with
            link := .connected, connectOk := true, hsStep := .idle, diag := s.diag ++ [.connectDone true] })

/-- R186 to R188 (D17, D26): any other byte is discarded and the wait goes on, or times out at poll 400. -/
def Obligations.OtherBytesAreDiscardedInTheAckWait : Prop :=
  ∀ (s : State) (b : Byte), s.hsStep = .ackWait → b ≠ 0x04 →
    (s.hsPolls ≠ 400 →
      exec (.ackwaitDiscard b) s = .next { s with hsTimer := 5, diag := s.diag ++ [.ackWaitDiscard b] })
      ∧ (s.hsPolls = 400 →
          exec (.ackwaitDiscard b) s = .next { s with
            link := .disconnected, connectOk := false, hsStep := .idle
            diag := s.diag ++ [.ackWaitDiscard b, .handshakeTimeout, .connectDone false] })

/-- R191, R192 (D8): the second pulse ends with the line reopened at 115200, the FIFO emptied and the link connected. -/
def Obligations.SecondPulseEndsConnected : Prop :=
  ∀ s : State, s.hsStep = .pulse2 → s.hsTimer = 1 →
    exec .ms s = .next { s with
      hsTimer := 0, line := .uart, baud := .b115200, rxFifo := [], link := .connected, connectOk := true, hsStep := .idle
      diag := s.diag ++ [.connectDone true] }

/-- R183, R184: a handshake whose writes are all taken whole transmits the ROM's bytes in order, SYNC to ACK, and enters the ACK
wait after exactly the rest of the first pulse and the sum of the gaps. -/
def Obligations.HandshakeTransmitsTheWholeRom : Prop :=
  ∀ (s : State) (more : List Nat), s.inv = true → s.hsStep = .pulse1 →
    s.txAnswers = (romEntries s.cfg.rom).map (fun e => e.1.length) ++ more →
    s.inputs = List.replicate (s.hsTimer + ((romEntries s.cfg.rom).map (fun e => e.2)).sum) Event.ms →
    ∃ t, Sys2Proof.core.run s.inputs.length s = .next t
      ∧ t.hsStep = .ackWait ∧ t.link = .handshaking ∧ t.romPtr = t.romK ∧ t.hsPolls = 0 ∧ t.hsTimer = 5
      ∧ t.line = .uart ∧ t.baud = initBaud s.profile ∧ t.inputs = [] ∧ t.txAnswers = more ∧ t.cfg = s.cfg
      ∧ t.wire = s.wire ++ (romEntries s.cfg.rom).flatMap (fun e => e.1)

/-- R193, R194: a started handshake ends by itself, whatever the transport answers and with a silent hub: within the first pulse,
18 ms for each ROM entry, the 2000 ms of the ACK wait and the second pulse the link is `Connected` or `Disconnected`. -/
def Obligations.EveryHandshakeEnds : Prop :=
  ∀ s : State, s.inv = true → s.link = .handshaking →
    ∃ n t, n ≤ 500 + 18 * s.romK + 2000 + 10
      ∧ Sys2Proof.core.run n { s with inputs := List.replicate n Event.ms } = .next t
      ∧ t.link ≠ .handshaking ∧ t.hsStep = .idle

/-! ### The outbound encoder (44_outbound_encoder.md) -/

/-- R252, R257, R258: the Generic row is one write of three bytes with the checksum computed (log entry 10); a short count loses the
link and changes nothing else (D18, D26, conflict C4; log entry 15). -/
def Obligations.GenericRowIsOneWriteOfThreeBytes : Prop :=
  ∀ (s : State) (d ck : Byte) (n : Nat), s.link = .connected → s.profile = .generic → n = s.txCount 3 →
    n ≤ 3
      ∧ (n = 3 → exec (.dataGeneric d ck) s = .next (s.wrote [0xC0, d, 0xFF ^^^ 0xC0 ^^^ d] n))
      ∧ (n < 3 → exec (.dataGeneric d ck) s =
          .next { s.wrote [0xC0, d, 0xFF ^^^ 0xC0 ^^^ d] n with link := .disconnected, diag := s.diag ++ [.linkLost n] })

/-- R254, R257, R258: the EV3 row is one write of seven bytes, the checksum (log entry 10) over header and value bytes only (D13,
conflict C1); a short count loses the link and changes nothing else (D18, D26, conflict C4; log entry 15). -/
def Obligations.Ev3RowIsOneWriteOfSevenBytes : Prop :=
  ∀ (s : State) (k : BitVec 3) (lo hi ck hdr : Byte) (n : Nat), s.link = .connected → s.profile = .ev3Compatible →
    hdr = 0xC8 ||| k.setWidth 8 → n = s.txCount 7 →
    n ≤ 7
      ∧ (n = 7 → exec (.dataEv3 k lo hi ck) s =
          .next (s.wrote [0x46, 0x00, 0xB9, hdr, lo, hi, 0xFF ^^^ hdr ^^^ lo ^^^ hi] n))
      ∧ (n < 7 → exec (.dataEv3 k lo hi ck) s =
          .next { s.wrote [0x46, 0x00, 0xB9, hdr, lo, hi, 0xFF ^^^ hdr ^^^ lo ^^^ hi] n with
            link := .disconnected, diag := s.diag ++ [.linkLost n] })

/-- R250, R251, R280 (D7, D25): a tick in `Connected` drains, fetches the outbound row's operands once from `value` and the
drained `mode`, and executes that row; the row is well formed. -/
def Obligations.TickRunsTheOutboundRow : Prop :=
  ∀ s : State, s.link = .connected →
    exec .tick s = exec (outboundInstr (drain s)) (drain s)
      ∧ wellFormed s.profile (outboundInstr (drain s)) = true
      ∧ encode (outboundInstr (drain s)) = outboundUnit s.profile s.value (drain s).mode

/-- R252: a tick of a connected Generic device sends `C0, value & 0xFF, checksum` after the drain, whatever the mode. That every
short count, 1 and 2 as well as 0, loses the link and changes nothing else is decisions D18 and D26 (R257, R258, conflict C4; log
entry 15). -/
def Obligations.GenericTickSendsTheLowByte : Prop :=
  ∀ (s : State) (d : Byte) (n : Nat), s.link = .connected → s.profile = .generic → d.toNat = s.value.toNat % 256 →
    n = s.txCount 3 →
    exec .tick s = .next { (drain s).wrote [0xC0, d, 0xFF ^^^ 0xC0 ^^^ d] n with
      link := if n < 3 then .disconnected else .connected
      diag := (drain s).diag ++ if n < 3 then [.linkLost n] else [] }

/-- R254: a tick of a connected Ev3Compatible device sends `46 00 B9`, `0xC8 | mode` with the mode the same drain left, the value
low byte first, and the checksum of the last three. The checksum's scope is decision D13 (conflict C1), the header of the modes 8
to 15 decision D28 (R256), the loss of the link on every short count decisions D18 and D26 (R257, R258, conflict C4): log entry 15. -/
def Obligations.Ev3TickSendsModeAndValue : Prop :=
  ∀ (s : State) (hdr lo hi : Byte) (n : Nat), s.link = .connected → s.profile = .ev3Compatible →
    hdr.toNat = 0xC8 ||| (drain s).mode.toNat → lo.toNat = s.value.toNat % 256 → hi.toNat = s.value.toNat / 256 →
    n = s.txCount 7 →
    exec .tick s = .next { (drain s).wrote [0x46, 0x00, 0xB9, hdr, lo, hi, 0xFF ^^^ hdr ^^^ lo ^^^ hi] n with
      link := if n < 7 then .disconnected else .connected
      diag := (drain s).diag ++ if n < 7 then [.linkLost n] else [] }

/-- R280, R310 (D7): a tick outside `Connected` changes nothing: no drain, no send. -/
def Obligations.TickOutsideConnectedIsIgnored : Prop :=
  ∀ s : State, s.link ≠ .connected → exec .tick s = .next s

/-- R104, R250, R260: outside the ACK wait no polled byte has an effect; a unit of the other profile, or outside `Connected`, is
not sent (log entry 9). -/
def Obligations.RowsOutsideTheirContextDoNothing : Prop :=
  ∀ s : State,
    (s.hsStep ≠ .ackWait → exec .ackEcho s = .next s ∧ ∀ b, exec (.ackwaitDiscard b) s = .next s)
      ∧ (s.link ≠ .connected ∨ s.profile ≠ .generic → ∀ d ck, exec (.dataGeneric d ck) s = .next s)
      ∧ (s.link ≠ .connected ∨ s.profile ≠ .ev3Compatible → ∀ k lo hi ck, exec (.dataEv3 k lo hi ck) s = .next s)

/-- R256 (D28): the EV3 header of a mode 8 to 15 is that of the mode 8 below it. -/
def Obligations.UpperModesShareTheHeader : Prop :=
  ∀ m : ModeNum, 8 ≤ m.toNat → ev3Header m = ev3Header (m - 8) ∧ ev3Header m = ev3HeaderOf (m.extractLsb' 0 3)

/-- R236 (h), C2: the engine's own EV3 unit, looped back, is a valid WRITE-DATA with the two value bytes as payload. -/
def Obligations.LoopedBackUnitIsAValidWriteData : Prop :=
  ∀ (p : Profile) (v : Value) (m : ModeNum),
    ∃ d, decodeSteady p (outboundUnit .ev3Compatible v m) = .ok (.writeData 0x00 0xB9 (some d)) []
      ∧ d.payload = [lowByte v, highByte v] ∧ d.ck = Machine.checksum (d.sizeMode :: d.payload)
      ∧ wellFormed p (.writeData 0x00 0xB9 (some d)) = true

/-! ### Host operations (45_connection_and_host_ops.md), reset, the step -/

/-- R282 (D3): `set_value(v)` stores `v` modulo 2^16 and changes no other field. -/
def Obligations.SetValueStoresSixteenBits : Prop :=
  ∀ (s : State) (v : Int),
    ∃ x : Value, exec (.setValue v) s = .next { s with value := x } ∧ (x.toNat : Int) = v % 65536

/-- R284: `is_connected` answers whether the link is `Connected` and changes no state. -/
def Obligations.IsConnectedAnswersTheLink : Prop :=
  ∀ s : State, exec .isConnected s = .next { s with replies := s.replies ++ [.connected (decide (s.link = .connected))] }

/-- R283, R285 (D27): `get_mode` and `get_text` answer their register and change no state. -/
def Obligations.ReadAccessorsAnswerTheirRegister : Prop :=
  ∀ s : State,
    exec .getMode s = .next { s with replies := s.replies ++ [.mode s.mode] }
      ∧ exec .getText s = .next { s with replies := s.replies ++ [.text s.text] }

/-- R62 (D8): an arriving byte is appended while the line is the UART's and there is room; into a full FIFO, or with the receiver
off, it is lost. -/
def Obligations.ArrivingByteIsQueuedOrLost : Prop :=
  ∀ (s : State) (b : Byte),
    (s.line = .uart → s.rxFifo.length < s.cfg.rxDepth → exec (.rx b) s = .next { s with rxFifo := s.rxFifo ++ [b] })
      ∧ (s.line = .uart → s.rxFifo.length = s.cfg.rxDepth → exec (.rx b) s = .next s)
      ∧ (s.line ≠ .uart → exec (.rx b) s = .next s)

/-- R340, R48 (D4): `reset` gives every field of `S` its reset value, from any state; the constants and the model's own input and
output fields stay (log entry 6). R48 says `SPACES13`; that its byte, in `text` and `stage`, is 0x20 is decision D30 (R26; PRESUMED,
log entry 12). -/
def Obligations.ResetRestoresEveryField : Prop :=
  ∀ s : State, exec .reset s = .next { s with
    link := .disconnected, mode := 0, value := 0, text := Vector.replicate 13 0x20, connectOk := false, line := .released
    baud := (match s.profile with | .generic => .b2400 | .ev3Compatible => .b115200), rxFifo := [], hsStep := .idle
    romPtr := 0, hsTimer := 0, hsPolls := 0, ph := .idle, acc := 0, cnt := 0, idx := 0, bank := false, m0 := 0, sm := 0
    selM := 0, cb := #v[0, 0], stage := Vector.replicate 13 0x20 }

/-- R12, R80: a step performs the environment's next event and no other; with none to come the engine holds its state (R330). -/
def Obligations.StepPerformsTheNextEvent : Prop :=
  ∀ (s : State) (e : Event) (rest : List Event),
    (s.inputs = e :: rest → step s = exec e.instr { s with inputs := rest }) ∧ (s.inputs = [] → step s = .next s)

/-- R300: the block raises nothing; every instruction and every step, in every state, answers a next state. -/
def Obligations.NothingIsRaised : Prop :=
  (∀ (i : Instr) (s : State), ∃ t, exec i s = .next t) ∧ ∀ s : State, ∃ t, step s = .next t

/-- R50: the invariant holds right after reset, for every device. -/
def Obligations.ResetMeetsTheInvariant : Prop := ∀ c : Config, (State.resetWith c).inv = true

/-- R50: every step keeps the invariant. -/
def Obligations.StepKeepsTheInvariant : Prop := ∀ s t : State, s.inv = true → step s = .next t → t.inv = true

/-- R271 to R275: the link moves only by the table of R275. -/
def Obligations.LinkMovesOnlyByTheTable : Prop :=
  ∀ (s t : State) (e : Event) (rest : List Event), s.inv = true → s.inputs = e :: rest → step s = .next t →
    linkMoveAllowed e s.link t.link = true

/-- R27, R88: no event changes the profile, the ROM or the depth. -/
def Obligations.ConstantsNeverChange : Prop := ∀ s t : State, step s = .next t → t.cfg = s.cfg

/-- R22 to R24, R45, R321: `value` is written by `set_value` and `reset` only; `mode` and `text` by `tick`, `connect` and `reset`
only; `connect_ok` by `ms` and `reset` only. -/
def Obligations.RegistersHaveTheirWriters : Prop :=
  ∀ (s t : State) (e : Event) (rest : List Event), s.inputs = e :: rest → step s = .next t → e ≠ .reset →
    ((∀ v, e ≠ .setValue v) → t.value = s.value)
      ∧ (e ≠ .tick → e ≠ .connect → t.mode = s.mode ∧ t.text = s.text)
      ∧ (e ≠ .ms → t.connectOk = s.connectOk)

/-- R30, R31: `line` and `baud` move only by `connect`, `ms` and `reset`. -/
def Obligations.LineMovesOnlyInAHandshake : Prop :=
  ∀ (s t : State) (e : Event) (rest : List Event), s.inputs = e :: rest → step s = .next t →
    e ≠ .connect → e ≠ .ms → e ≠ .reset → t.line = s.line ∧ t.baud = s.baud

/-- R76, R84, R259, R260: only a `tick` in `Connected` and an `ms` in a handshake transmit, one write each at most, and a tick in
`Connected` transmits exactly one. -/
def Obligations.AtMostOneWritePerEvent : Prop :=
  ∀ (s t : State) (e : Event) (rest : List Event), s.inputs = e :: rest → step s = .next t →
    (t.txLog = s.txLog
        ∨ ((e = .tick ∧ s.link = .connected ∨ e = .ms ∧ s.hsStep ≠ .idle) ∧ ∃ w, t.txLog = s.txLog ++ [w]))
      ∧ (e = .tick → s.link = .connected → ∃ w, t.txLog = s.txLog ++ [w])
end

