-- ==== Sys2Proof/Laws/Codec.lean ====
section
/-! SUPPORT. The exclusive-or fold of the codec (R130) and the shape of a frame (R131, R132). -/

namespace Sys2Proof.Machine

/-- The fold's start value can be taken out. -/
theorem foldl_xor_start (bs : List Byte) (a : Byte) :
    bs.foldl (fun acc b => acc ^^^ b) a = a ^^^ bs.foldl (fun acc b => acc ^^^ b) 0 := by
  induction bs generalizing a with
  | nil => simp
  | cons b bs ih =>
    rw [List.foldl_cons, ih, List.foldl_cons, ih (0 ^^^ b)]
    simp [BitVec.xor_assoc]

/-- The checksum as 0xFF against the plain fold. -/
theorem checksum_eq_start (bs : List Byte) :
    checksum bs = 0xFF ^^^ bs.foldl (fun acc b => acc ^^^ b) 0 := foldl_xor_start bs _

theorem checksum_nil : checksum [] = 0xFF := rfl

/-- The accumulator's loading at a header byte (R40). -/
theorem checksum_singleton (b : Byte) : checksum [b] = 0xFF ^^^ b := rfl

theorem buildFrame_ne_nil (h : Byte) (p : List Byte) : buildFrame h p ≠ [] := by simp [buildFrame]

/-- `verify_frame` of a string with its last byte apart. -/
theorem verifyFrame_concat (bs : List Byte) (c : Byte) : verifyFrame (bs ++ [c]) = (checksum bs == c) := by
  simp [verifyFrame]

end Sys2Proof.Machine
end

