-- ==== Sys2Proof/Laws/Decode.lean ====
section
/-! SUPPORT. One lemma per decoding function: what it reads from an encoding. -/

namespace Sys2Proof
open Machine

/-- A ROM slot that holds a frame, not a bare byte. -/
def isFrameSlot : RomSlot → Bool
  | .sync => false
  | .ack => false
  | _ => true

/-- The header of an EV3 unit gives its mode bits back (R256). -/
theorem lowField_ev3HeaderOf (k : BitVec 3) : lowField (ev3HeaderOf k) = k := by
  revert k
  decide

/-- The header of an EV3 unit passes the table's mask. -/
theorem ev3HeaderOf_mask (k : BitVec 3) : ev3HeaderOf k &&& 0xF8 = 0xC8 := by
  revert k
  decide

/-- A header that passes the table's mask is that of its mode bits. -/
theorem ev3HeaderOf_lowField (h : Byte) (hm : h &&& 0xF8 = 0xC8) : ev3HeaderOf (lowField h) = h := by
  revert h
  decide

theorem decodeDataFrame_encode (m0 m1 sm ck : Byte) (pl rest : List Byte) (hl : pl.length = declaredLength sm) :
    decodeDataFrame m0 m1 (sm :: (pl ++ ck :: rest)) = .ok (.writeData m0 m1 (some ⟨sm, pl, ck⟩)) rest := by
  simp [decodeDataFrame, ← hl]

theorem decodeCombo_encode (p : Profile) (data rest : List Byte) (ck : Byte) (hl : data.length = comboLen p) :
    decodeCombo p (data ++ ck :: rest) = .ok (.combo data ck) rest := by
  simp [decodeCombo, ← hl]

/-- An unrecognised leading byte is `UNKNOWN` (R107). -/
theorem decodeSteady_unknown (p : Profile) (b : Byte) (rest : List Byte) (hb : recognisedLeading b = false) :
    decodeSteady p (b :: rest) = .ok (.unknown b) rest := by
  simp [recognisedLeading] at hb
  simp [decodeSteady, hb]

theorem decodeRomFrame_buildFrame (slot : RomSlot) (h : Byte) (pl : List Byte) (hp : pl ≠ []) :
    decodeRomFrame slot (buildFrame h pl) = .ok (romInstr slot h pl) [] := by
  have hv : verifyFrame (buildFrame h pl) = true := by
    rw [buildFrame, verifyFrame_concat]
    simp
  have hl : 3 ≤ (buildFrame h pl).length := by
    cases pl with
    | nil => exact absurd rfl hp
    | cons a pl => simp [buildFrame]
  rw [decodeRomFrame, if_pos ⟨hl, hv⟩]
  simp [buildFrame]

/-- A frame slot decodes as a frame. -/
theorem decodeRom_frameSlot (slot : RomSlot) (bs : List Byte) (hs : isFrameSlot slot = true) :
    decodeRom slot bs = decodeRomFrame slot bs := by
  cases slot <;> first | rfl | simp [isFrameSlot] at hs

/-- What the drain's decoder reads: a well-formed row of steady state, and the bytes it encodes to. -/
theorem decodeSteady_ok (p : Profile) (bs rest : List Byte) (i : Instr) (h : decodeSteady p bs = .ok i rest) :
    contextOf i = some .steady ∧ encode i ++ rest = bs ∧ wellFormed p i = true := by
  rcases bs with _ | ⟨b, r⟩
  · simp [decodeSteady] at h
  simp only [decodeSteady] at h
  split at h
  · cases h; simp_all [contextOf, encode, wellFormed]
  split at h
  · cases h; simp_all [contextOf, encode, wellFormed]
  split at h
  · rcases r with _ | ⟨m, _ | ⟨ck, r⟩⟩ <;> simp [decodeSelect] at h
    obtain ⟨rfl, rfl⟩ := h; simp_all [contextOf, encode, wellFormed]
  split at h
  · rcases r with _ | ⟨m0, _ | ⟨m1, r⟩⟩ <;> simp only [decodeWriteData] at h <;> try cases h
    split at h
    · rename_i hm
      rcases r with _ | ⟨sm, r⟩
      · simp [decodeDataFrame] at h
      simp only [decodeDataFrame] at h
      split at h
      · cases h
      · split at h
        · cases h
        · rename_i hl _ ck rr hd
          cases h
          have : r = r.take (declaredLength sm) ++ ck :: rest := by rw [← hd]; simp
          refine ⟨rfl, ?_, ?_⟩
          · subst_vars
            simp only [encode, encodeDataFrame, List.cons_append, List.append_assoc, List.nil_append]
            rw [← this]
          · simp [wellFormed, hm]; omega
    · cases h; simp_all [contextOf, encode, wellFormed]
  split at h
  · simp only [decodeCombo] at h
    split at h
    · cases h
    · split at h
      · cases h
      · rename_i hl _ ck rr hd
        cases h
        have : r = r.take (comboLen p) ++ ck :: rest := by rw [← hd]; simp
        refine ⟨rfl, ?_, ?_⟩
        · subst_vars
          simp only [encode, List.cons_append, List.append_assoc, List.nil_append]
          rw [← this]
        · simp [wellFormed]; omega
  · cases h; simp_all [contextOf, encode, wellFormed, recognisedLeading]

end Sys2Proof
end

