-- ==== Sys2Proof/Laws/Rom.lean ====
section
/-! SUPPORT. The handshake ROM as a list of entries (R150), and the checks of an entry read from a list (R157, R158). -/

namespace Sys2Proof.Machine

/-- A frame of the ROM as an entry: its bytes and its gap (R150). -/
def frameEntry (f : RomFrame) : List Byte × Nat := (buildFrame f.header (f.first :: f.more), gapMs f.gap)

/-- The seven entries of one mode's group (R154). -/
def groupEntries (g : ModeGroup) : List (List Byte × Nat) :=
  [frameEntry g.name, frameEntry g.raw, frameEntry g.percent, frameEntry g.si, frameEntry g.symbol, frameEntry g.mapping,
   frameEntry g.format]

/-- In a frame slot the row's bytes are the frame built of header and payload. -/
theorem encode_romInstr_frame (slot : RomSlot) (h : Byte) (p : List Byte) (hs : isFrameSlot slot = true) :
    encode (romInstr slot h p) = buildFrame h p := by
  cases slot <;> first | rfl | simp [isFrameSlot] at hs

theorem groupLines_entries (gs : List ModeGroup) :
    (gs.flatMap groupLines).map (fun l => (encode l.instr, l.gap)) = gs.flatMap groupEntries := by
  induction gs with
  | nil => rfl
  | cons g gs ih => simp only [List.flatMap_cons, List.map_append, ih]; rfl

/-- The entry list of a ROM, written out. -/
theorem romEntries_eq (r : Rom) :
    romEntries r =
      ([0x00], gapMs r.syncGap) :: frameEntry r.type :: frameEntry r.modes :: frameEntry r.speed :: frameEntry r.version ::
        (r.groups.flatMap groupEntries ++ [([0x04], 0)]) := by
  simp only [romEntries, romProgram, List.map_append, groupLines_entries]
  rfl

theorem romEntries_length (r : Rom) : (romEntries r).length = romLength r := by simp [romEntries, romLength]

/-- There is a line at every index below `K` (R66). -/
theorem exists_romLine (r : Rom) (i : Nat) (h : i < romLength r) : ∃ l, (romProgram r)[i]? = some l :=
  ⟨_, List.getElem?_eq_getElem h⟩

/-- `K` is at least 6: SYNC, four identification frames, ACK. -/
theorem six_le_romLength (r : Rom) : 6 ≤ romLength r := by
  simp [romLength, romProgram]

theorem verifyFrame_frameEntry (f : RomFrame) : verifyFrame (frameEntry f).1 = true := by
  simp only [frameEntry, buildFrame]
  rw [verifyFrame_concat]
  simp

theorem three_le_frameEntry (f : RomFrame) : 3 ≤ (frameEntry f).1.length := by simp [frameEntry, buildFrame]

theorem gapMs_range (g : Gap) : 1 ≤ gapMs g ∧ gapMs g ≤ 18 := by simp only [gapMs]; omega

/-- A gap is accepted exactly in its range, as itself (R158). -/
theorem gapOf?_eq_some (n : Nat) (g : Gap) : gapOf? n = some g ↔ gapMs g = n := by
  simp only [gapOf?, gapMs]
  constructor
  · split
    · intro h; cases h; simp; omega
    · intro h; cases h
  · rintro rfl
    have : 1 ≤ g.val + 1 ∧ g.val + 1 ≤ 18 := by omega
    rw [dif_pos this]; simp

/-- An entry is accepted as a frame exactly when it is that frame's entry (R157, R158). -/
theorem frameOf?_eq_some (e : List Byte × Nat) (f : RomFrame) : frameOf? e = some f ↔ frameEntry f = e := by
  obtain ⟨bs, n⟩ := e
  simp only [frameOf?, frameEntry, Prod.mk.injEq]
  constructor
  · intro h
    split at h
    · rename_i hh p0 c more g hg
      split at h
      · rename_i hv
        cases h
        refine ⟨?_, (gapOf?_eq_some _ _).1 hg⟩
        simp only
        rcases List.eq_nil_or_concat (c :: more) with h0 | ⟨m, ck, h0⟩
        · cases h0
        · rw [h0, List.concat_eq_append] at hv ⊢
          simp only [← List.cons_append] at hv
          rw [verifyFrame_concat, beq_iff_eq] at hv
          subst hv
          simp [buildFrame]
      · cases h
    · cases h
  · rintro ⟨rfl, hg⟩
    rw [(gapOf?_eq_some n f.gap).2 hg]
    obtain ⟨h, p0, more, g⟩ := f
    have hv : verifyFrame (buildFrame h (p0 :: more)) = true := by
      rw [buildFrame, verifyFrame_concat]; simp
    simp only [buildFrame, List.cons_append] at hv ⊢
    rcases hx : more ++ [checksum (h :: p0 :: more)] with _ | ⟨c, m2⟩
    · simp at hx
    · rw [hx] at hv
      simp only [hv, if_true]
      rw [← hx]; simp

/-- The groups of the array modes and the profile's own are all the groups, in the order of transmission (R155). -/
theorem arrayGroups_append_ownGroups (p : Profile) (r : Rom) : arrayGroups p r ++ ownGroups p r = r.groups :=
  List.take_append_drop ..

@[simp] theorem romMeetsProfile_ev3Compatible (r : Rom) : romMeetsProfile .ev3Compatible r = true := by
  simp [romMeetsProfile, arrayGroupCount]

/-- On Generic the condition says that four groups come first (R155). -/
theorem romMeetsProfile_generic (r : Rom) : romMeetsProfile .generic r = true ↔ (arrayGroups .generic r).length = 4 := by
  simp [romMeetsProfile, arrayGroups, arrayGroupCount, arrayModes]

/-- What the refusal by profile accepts (U1). -/
theorem hsSeqOfEntries?_eq_some (p : Profile) (es : List (List Byte × Nat)) (r : Rom) :
    hsSeqOfEntries? p es = some r ↔ romOfEntries? es = some r ∧ romMeetsProfile p r = true := by
  simp [hsSeqOfEntries?, Option.filter_eq_some_iff]

/-- Every line of the ROM is the row of its slot, and a frame's payload is not empty (R152 to R157). -/
theorem romLine_form (r : Rom) (k : Nat) (l : RomLine) (h : (romProgram r)[k]? = some l) : ∃ hh p, l.instr = romInstr l.slot hh p ∧ (isFrameSlot l.slot = true → p ≠ []) := by
  have h := List.mem_of_getElem? h
  have hf : ∀ sl f, (∃ hh p, (frameLine sl f).instr = romInstr (frameLine sl f).slot hh p ∧ (isFrameSlot sl = true → p ≠ [])) := fun sl f => ⟨_, _, rfl, by simp⟩
  simp only [romProgram, List.mem_append, List.mem_cons, List.mem_flatMap, List.not_mem_nil, or_false] at h
  rcases h with (h | ⟨g, hg, h⟩) | h
  · rcases h with rfl | rfl | rfl | rfl | rfl
    · exact ⟨0, [], rfl, by simp [isFrameSlot]⟩
    all_goals exact hf _ _
  · simp only [groupLines, List.mem_cons, List.not_mem_nil, or_false] at h
    rcases h with rfl | rfl | rfl | rfl | rfl | rfl | rfl <;> exact hf _ _
  · subst h; exact ⟨0, [], rfl, by simp [isFrameSlot]⟩

/-- The gap of every line but the last is 1 to 18 ms (R158). -/
theorem romLine_gap (r : Rom) (k : Nat) (l : RomLine) (h : (romProgram r)[k]? = some l) (hk : k + 1 ≠ romLength r) : 1 ≤ l.gap ∧ l.gap ≤ 18 := by
  have hlt : k < romLength r := by
    rw [List.getElem?_eq_some_iff] at h; exact h.1
  unfold romLength at *
  unfold romProgram at *
  rw [List.getElem?_append_left (by simp at *; omega)] at h
  have h := List.mem_of_getElem? h
  have hf : ∀ sl f, 1 ≤ (frameLine sl f).gap ∧ (frameLine sl f).gap ≤ 18 := fun sl f => gapMs_range _
  simp only [List.mem_append, List.mem_cons, List.mem_flatMap, List.not_mem_nil, or_false] at h
  rcases h with (h | ⟨g, hg, h⟩)
  · rcases h with rfl | rfl | rfl | rfl | rfl
    · exact gapMs_range _
    all_goals exact hf _ _
  · simp only [groupLines, List.mem_cons, List.not_mem_nil, or_false] at h
    rcases h with rfl | rfl | rfl | rfl | rfl | rfl | rfl <;> exact hf _ _

end Sys2Proof.Machine
end

