-- ==== Sys2Proof/Laws/State.lean ====
section
/-! SUPPORT. What each named update of State leaves in each field, true by definition. -/

namespace Sys2Proof.Machine

variable (s : State)

@[simp] theorem State.emit_cfg (d : Diag) : (s.emit d).cfg = s.cfg := rfl
@[simp] theorem State.emit_link (d : Diag) : (s.emit d).link = s.link := rfl
@[simp] theorem State.emit_mode (d : Diag) : (s.emit d).mode = s.mode := rfl
@[simp] theorem State.emit_value (d : Diag) : (s.emit d).value = s.value := rfl
@[simp] theorem State.emit_text (d : Diag) : (s.emit d).text = s.text := rfl
@[simp] theorem State.emit_connectOk (d : Diag) : (s.emit d).connectOk = s.connectOk := rfl
@[simp] theorem State.emit_line (d : Diag) : (s.emit d).line = s.line := rfl
@[simp] theorem State.emit_baud (d : Diag) : (s.emit d).baud = s.baud := rfl
@[simp] theorem State.emit_rxFifo (d : Diag) : (s.emit d).rxFifo = s.rxFifo := rfl
@[simp] theorem State.emit_hsStep (d : Diag) : (s.emit d).hsStep = s.hsStep := rfl
@[simp] theorem State.emit_romPtr (d : Diag) : (s.emit d).romPtr = s.romPtr := rfl
@[simp] theorem State.emit_hsTimer (d : Diag) : (s.emit d).hsTimer = s.hsTimer := rfl
@[simp] theorem State.emit_hsPolls (d : Diag) : (s.emit d).hsPolls = s.hsPolls := rfl
@[simp] theorem State.emit_ph (d : Diag) : (s.emit d).ph = s.ph := rfl
@[simp] theorem State.emit_acc (d : Diag) : (s.emit d).acc = s.acc := rfl
@[simp] theorem State.emit_cnt (d : Diag) : (s.emit d).cnt = s.cnt := rfl
@[simp] theorem State.emit_idx (d : Diag) : (s.emit d).idx = s.idx := rfl
@[simp] theorem State.emit_bank (d : Diag) : (s.emit d).bank = s.bank := rfl
@[simp] theorem State.emit_m0 (d : Diag) : (s.emit d).m0 = s.m0 := rfl
@[simp] theorem State.emit_sm (d : Diag) : (s.emit d).sm = s.sm := rfl
@[simp] theorem State.emit_selM (d : Diag) : (s.emit d).selM = s.selM := rfl
@[simp] theorem State.emit_cb (d : Diag) : (s.emit d).cb = s.cb := rfl
@[simp] theorem State.emit_stage (d : Diag) : (s.emit d).stage = s.stage := rfl
@[simp] theorem State.emit_inputs (d : Diag) : (s.emit d).inputs = s.inputs := rfl
@[simp] theorem State.emit_txAnswers (d : Diag) : (s.emit d).txAnswers = s.txAnswers := rfl
@[simp] theorem State.emit_draws (d : Diag) : (s.emit d).draws = s.draws := rfl
@[simp] theorem State.emit_txLog (d : Diag) : (s.emit d).txLog = s.txLog := rfl
@[simp] theorem State.emit_diag (d : Diag) : (s.emit d).diag = s.diag ++ [d] := rfl
@[simp] theorem State.emit_replies (d : Diag) : (s.emit d).replies = s.replies := rfl

@[simp] theorem State.answer_cfg (r : Reply) : (s.answer r).cfg = s.cfg := rfl
@[simp] theorem State.answer_link (r : Reply) : (s.answer r).link = s.link := rfl
@[simp] theorem State.answer_mode (r : Reply) : (s.answer r).mode = s.mode := rfl
@[simp] theorem State.answer_value (r : Reply) : (s.answer r).value = s.value := rfl
@[simp] theorem State.answer_text (r : Reply) : (s.answer r).text = s.text := rfl
@[simp] theorem State.answer_connectOk (r : Reply) : (s.answer r).connectOk = s.connectOk := rfl
@[simp] theorem State.answer_line (r : Reply) : (s.answer r).line = s.line := rfl
@[simp] theorem State.answer_baud (r : Reply) : (s.answer r).baud = s.baud := rfl
@[simp] theorem State.answer_rxFifo (r : Reply) : (s.answer r).rxFifo = s.rxFifo := rfl
@[simp] theorem State.answer_hsStep (r : Reply) : (s.answer r).hsStep = s.hsStep := rfl
@[simp] theorem State.answer_romPtr (r : Reply) : (s.answer r).romPtr = s.romPtr := rfl
@[simp] theorem State.answer_hsTimer (r : Reply) : (s.answer r).hsTimer = s.hsTimer := rfl
@[simp] theorem State.answer_hsPolls (r : Reply) : (s.answer r).hsPolls = s.hsPolls := rfl
@[simp] theorem State.answer_ph (r : Reply) : (s.answer r).ph = s.ph := rfl
@[simp] theorem State.answer_acc (r : Reply) : (s.answer r).acc = s.acc := rfl
@[simp] theorem State.answer_cnt (r : Reply) : (s.answer r).cnt = s.cnt := rfl
@[simp] theorem State.answer_idx (r : Reply) : (s.answer r).idx = s.idx := rfl
@[simp] theorem State.answer_bank (r : Reply) : (s.answer r).bank = s.bank := rfl
@[simp] theorem State.answer_m0 (r : Reply) : (s.answer r).m0 = s.m0 := rfl
@[simp] theorem State.answer_sm (r : Reply) : (s.answer r).sm = s.sm := rfl
@[simp] theorem State.answer_selM (r : Reply) : (s.answer r).selM = s.selM := rfl
@[simp] theorem State.answer_cb (r : Reply) : (s.answer r).cb = s.cb := rfl
@[simp] theorem State.answer_stage (r : Reply) : (s.answer r).stage = s.stage := rfl
@[simp] theorem State.answer_inputs (r : Reply) : (s.answer r).inputs = s.inputs := rfl
@[simp] theorem State.answer_txAnswers (r : Reply) : (s.answer r).txAnswers = s.txAnswers := rfl
@[simp] theorem State.answer_draws (r : Reply) : (s.answer r).draws = s.draws := rfl
@[simp] theorem State.answer_txLog (r : Reply) : (s.answer r).txLog = s.txLog := rfl
@[simp] theorem State.answer_diag (r : Reply) : (s.answer r).diag = s.diag := rfl
@[simp] theorem State.answer_replies (r : Reply) : (s.answer r).replies = s.replies ++ [r] := rfl

@[simp] theorem State.delay_cfg (n : Nat) : (s.delay n).cfg = s.cfg := rfl
@[simp] theorem State.delay_link (n : Nat) : (s.delay n).link = s.link := rfl
@[simp] theorem State.delay_mode (n : Nat) : (s.delay n).mode = s.mode := rfl
@[simp] theorem State.delay_value (n : Nat) : (s.delay n).value = s.value := rfl
@[simp] theorem State.delay_text (n : Nat) : (s.delay n).text = s.text := rfl
@[simp] theorem State.delay_connectOk (n : Nat) : (s.delay n).connectOk = s.connectOk := rfl
@[simp] theorem State.delay_line (n : Nat) : (s.delay n).line = s.line := rfl
@[simp] theorem State.delay_baud (n : Nat) : (s.delay n).baud = s.baud := rfl
@[simp] theorem State.delay_rxFifo (n : Nat) : (s.delay n).rxFifo = s.rxFifo := rfl
@[simp] theorem State.delay_hsStep (n : Nat) : (s.delay n).hsStep = s.hsStep := rfl
@[simp] theorem State.delay_romPtr (n : Nat) : (s.delay n).romPtr = s.romPtr := rfl
@[simp] theorem State.delay_hsTimer (n : Nat) : (s.delay n).hsTimer = n := rfl
@[simp] theorem State.delay_hsPolls (n : Nat) : (s.delay n).hsPolls = s.hsPolls := rfl
@[simp] theorem State.delay_ph (n : Nat) : (s.delay n).ph = s.ph := rfl
@[simp] theorem State.delay_acc (n : Nat) : (s.delay n).acc = s.acc := rfl
@[simp] theorem State.delay_cnt (n : Nat) : (s.delay n).cnt = s.cnt := rfl
@[simp] theorem State.delay_idx (n : Nat) : (s.delay n).idx = s.idx := rfl
@[simp] theorem State.delay_bank (n : Nat) : (s.delay n).bank = s.bank := rfl
@[simp] theorem State.delay_m0 (n : Nat) : (s.delay n).m0 = s.m0 := rfl
@[simp] theorem State.delay_sm (n : Nat) : (s.delay n).sm = s.sm := rfl
@[simp] theorem State.delay_selM (n : Nat) : (s.delay n).selM = s.selM := rfl
@[simp] theorem State.delay_cb (n : Nat) : (s.delay n).cb = s.cb := rfl
@[simp] theorem State.delay_stage (n : Nat) : (s.delay n).stage = s.stage := rfl
@[simp] theorem State.delay_inputs (n : Nat) : (s.delay n).inputs = s.inputs := rfl
@[simp] theorem State.delay_txAnswers (n : Nat) : (s.delay n).txAnswers = s.txAnswers := rfl
@[simp] theorem State.delay_draws (n : Nat) : (s.delay n).draws = s.draws := rfl
@[simp] theorem State.delay_txLog (n : Nat) : (s.delay n).txLog = s.txLog := rfl
@[simp] theorem State.delay_diag (n : Nat) : (s.delay n).diag = s.diag := rfl
@[simp] theorem State.delay_replies (n : Nat) : (s.delay n).replies = s.replies := rfl

@[simp] theorem State.sessionReset_cfg : (s.sessionReset).cfg = s.cfg := rfl
@[simp] theorem State.sessionReset_link : (s.sessionReset).link = s.link := rfl
@[simp] theorem State.sessionReset_mode : (s.sessionReset).mode = 0 := rfl
@[simp] theorem State.sessionReset_value : (s.sessionReset).value = s.value := rfl
@[simp] theorem State.sessionReset_text : (s.sessionReset).text = spaces13 := rfl
@[simp] theorem State.sessionReset_connectOk : (s.sessionReset).connectOk = s.connectOk := rfl
@[simp] theorem State.sessionReset_line : (s.sessionReset).line = s.line := rfl
@[simp] theorem State.sessionReset_baud : (s.sessionReset).baud = s.baud := rfl
@[simp] theorem State.sessionReset_rxFifo : (s.sessionReset).rxFifo = s.rxFifo := rfl
@[simp] theorem State.sessionReset_hsStep : (s.sessionReset).hsStep = s.hsStep := rfl
@[simp] theorem State.sessionReset_romPtr : (s.sessionReset).romPtr = s.romPtr := rfl
@[simp] theorem State.sessionReset_hsTimer : (s.sessionReset).hsTimer = s.hsTimer := rfl
@[simp] theorem State.sessionReset_hsPolls : (s.sessionReset).hsPolls = s.hsPolls := rfl
@[simp] theorem State.sessionReset_ph : (s.sessionReset).ph = .idle := rfl
@[simp] theorem State.sessionReset_acc : (s.sessionReset).acc = s.acc := rfl
@[simp] theorem State.sessionReset_cnt : (s.sessionReset).cnt = s.cnt := rfl
@[simp] theorem State.sessionReset_idx : (s.sessionReset).idx = s.idx := rfl
@[simp] theorem State.sessionReset_bank : (s.sessionReset).bank = s.bank := rfl
@[simp] theorem State.sessionReset_m0 : (s.sessionReset).m0 = s.m0 := rfl
@[simp] theorem State.sessionReset_sm : (s.sessionReset).sm = s.sm := rfl
@[simp] theorem State.sessionReset_selM : (s.sessionReset).selM = s.selM := rfl
@[simp] theorem State.sessionReset_cb : (s.sessionReset).cb = s.cb := rfl
@[simp] theorem State.sessionReset_stage : (s.sessionReset).stage = s.stage := rfl
@[simp] theorem State.sessionReset_inputs : (s.sessionReset).inputs = s.inputs := rfl
@[simp] theorem State.sessionReset_txAnswers : (s.sessionReset).txAnswers = s.txAnswers := rfl
@[simp] theorem State.sessionReset_draws : (s.sessionReset).draws = s.draws := rfl
@[simp] theorem State.sessionReset_txLog : (s.sessionReset).txLog = s.txLog := rfl
@[simp] theorem State.sessionReset_diag : (s.sessionReset).diag = s.diag := rfl
@[simp] theorem State.sessionReset_replies : (s.sessionReset).replies = s.replies := rfl

@[simp] theorem State.openLine_cfg (b : Baud) : (s.openLine b).cfg = s.cfg := rfl
@[simp] theorem State.openLine_link (b : Baud) : (s.openLine b).link = s.link := rfl
@[simp] theorem State.openLine_mode (b : Baud) : (s.openLine b).mode = s.mode := rfl
@[simp] theorem State.openLine_value (b : Baud) : (s.openLine b).value = s.value := rfl
@[simp] theorem State.openLine_text (b : Baud) : (s.openLine b).text = s.text := rfl
@[simp] theorem State.openLine_connectOk (b : Baud) : (s.openLine b).connectOk = s.connectOk := rfl
@[simp] theorem State.openLine_line (b : Baud) : (s.openLine b).line = .uart := rfl
@[simp] theorem State.openLine_baud (b : Baud) : (s.openLine b).baud = b := rfl
@[simp] theorem State.openLine_rxFifo (b : Baud) : (s.openLine b).rxFifo = [] := rfl
@[simp] theorem State.openLine_hsStep (b : Baud) : (s.openLine b).hsStep = s.hsStep := rfl
@[simp] theorem State.openLine_romPtr (b : Baud) : (s.openLine b).romPtr = s.romPtr := rfl
@[simp] theorem State.openLine_hsTimer (b : Baud) : (s.openLine b).hsTimer = s.hsTimer := rfl
@[simp] theorem State.openLine_hsPolls (b : Baud) : (s.openLine b).hsPolls = s.hsPolls := rfl
@[simp] theorem State.openLine_ph (b : Baud) : (s.openLine b).ph = s.ph := rfl
@[simp] theorem State.openLine_acc (b : Baud) : (s.openLine b).acc = s.acc := rfl
@[simp] theorem State.openLine_cnt (b : Baud) : (s.openLine b).cnt = s.cnt := rfl
@[simp] theorem State.openLine_idx (b : Baud) : (s.openLine b).idx = s.idx := rfl
@[simp] theorem State.openLine_bank (b : Baud) : (s.openLine b).bank = s.bank := rfl
@[simp] theorem State.openLine_m0 (b : Baud) : (s.openLine b).m0 = s.m0 := rfl
@[simp] theorem State.openLine_sm (b : Baud) : (s.openLine b).sm = s.sm := rfl
@[simp] theorem State.openLine_selM (b : Baud) : (s.openLine b).selM = s.selM := rfl
@[simp] theorem State.openLine_cb (b : Baud) : (s.openLine b).cb = s.cb := rfl
@[simp] theorem State.openLine_stage (b : Baud) : (s.openLine b).stage = s.stage := rfl
@[simp] theorem State.openLine_inputs (b : Baud) : (s.openLine b).inputs = s.inputs := rfl
@[simp] theorem State.openLine_txAnswers (b : Baud) : (s.openLine b).txAnswers = s.txAnswers := rfl
@[simp] theorem State.openLine_draws (b : Baud) : (s.openLine b).draws = s.draws := rfl
@[simp] theorem State.openLine_txLog (b : Baud) : (s.openLine b).txLog = s.txLog := rfl
@[simp] theorem State.openLine_diag (b : Baud) : (s.openLine b).diag = s.diag := rfl
@[simp] theorem State.openLine_replies (b : Baud) : (s.openLine b).replies = s.replies := rfl

@[simp] theorem State.wrote_cfg (bs : List Byte) (n : Nat) : (s.wrote bs n).cfg = s.cfg := rfl
@[simp] theorem State.wrote_link (bs : List Byte) (n : Nat) : (s.wrote bs n).link = s.link := rfl
@[simp] theorem State.wrote_mode (bs : List Byte) (n : Nat) : (s.wrote bs n).mode = s.mode := rfl
@[simp] theorem State.wrote_value (bs : List Byte) (n : Nat) : (s.wrote bs n).value = s.value := rfl
@[simp] theorem State.wrote_text (bs : List Byte) (n : Nat) : (s.wrote bs n).text = s.text := rfl
@[simp] theorem State.wrote_connectOk (bs : List Byte) (n : Nat) : (s.wrote bs n).connectOk = s.connectOk := rfl
@[simp] theorem State.wrote_line (bs : List Byte) (n : Nat) : (s.wrote bs n).line = s.line := rfl
@[simp] theorem State.wrote_baud (bs : List Byte) (n : Nat) : (s.wrote bs n).baud = s.baud := rfl
@[simp] theorem State.wrote_rxFifo (bs : List Byte) (n : Nat) : (s.wrote bs n).rxFifo = s.rxFifo := rfl
@[simp] theorem State.wrote_hsStep (bs : List Byte) (n : Nat) : (s.wrote bs n).hsStep = s.hsStep := rfl
@[simp] theorem State.wrote_romPtr (bs : List Byte) (n : Nat) : (s.wrote bs n).romPtr = s.romPtr := rfl
@[simp] theorem State.wrote_hsTimer (bs : List Byte) (n : Nat) : (s.wrote bs n).hsTimer = s.hsTimer := rfl
@[simp] theorem State.wrote_hsPolls (bs : List Byte) (n : Nat) : (s.wrote bs n).hsPolls = s.hsPolls := rfl
@[simp] theorem State.wrote_ph (bs : List Byte) (n : Nat) : (s.wrote bs n).ph = s.ph := rfl
@[simp] theorem State.wrote_acc (bs : List Byte) (n : Nat) : (s.wrote bs n).acc = s.acc := rfl
@[simp] theorem State.wrote_cnt (bs : List Byte) (n : Nat) : (s.wrote bs n).cnt = s.cnt := rfl
@[simp] theorem State.wrote_idx (bs : List Byte) (n : Nat) : (s.wrote bs n).idx = s.idx := rfl
@[simp] theorem State.wrote_bank (bs : List Byte) (n : Nat) : (s.wrote bs n).bank = s.bank := rfl
@[simp] theorem State.wrote_m0 (bs : List Byte) (n : Nat) : (s.wrote bs n).m0 = s.m0 := rfl
@[simp] theorem State.wrote_sm (bs : List Byte) (n : Nat) : (s.wrote bs n).sm = s.sm := rfl
@[simp] theorem State.wrote_selM (bs : List Byte) (n : Nat) : (s.wrote bs n).selM = s.selM := rfl
@[simp] theorem State.wrote_cb (bs : List Byte) (n : Nat) : (s.wrote bs n).cb = s.cb := rfl
@[simp] theorem State.wrote_stage (bs : List Byte) (n : Nat) : (s.wrote bs n).stage = s.stage := rfl
@[simp] theorem State.wrote_inputs (bs : List Byte) (n : Nat) : (s.wrote bs n).inputs = s.inputs := rfl
@[simp] theorem State.wrote_txAnswers (bs : List Byte) (n : Nat) : (s.wrote bs n).txAnswers = s.txAnswers.drop 1 := rfl
@[simp] theorem State.wrote_draws (bs : List Byte) (n : Nat) : (s.wrote bs n).draws = if s.txAnswers = [] then s.draws + 1 else s.draws := rfl
@[simp] theorem State.wrote_txLog (bs : List Byte) (n : Nat) : (s.wrote bs n).txLog = s.txLog ++ [⟨s.baud, bs, n⟩] := rfl
@[simp] theorem State.wrote_diag (bs : List Byte) (n : Nat) : (s.wrote bs n).diag = s.diag := rfl
@[simp] theorem State.wrote_replies (bs : List Byte) (n : Nat) : (s.wrote bs n).replies = s.replies := rfl

/-- A write leaves the state `wrote` names, with the count the transport answered. -/
theorem State.txWrite_eq (bs : List Byte) :
    s.txWrite bs = (s.txCount bs.length, s.wrote bs (s.txCount bs.length)) := by
  unfold State.txWrite State.wrote
  cases h : s.txAnswers <;> simp

/-- The transport's count never exceeds the bytes offered (R64). -/
theorem State.txCount_le (n : Nat) : s.txCount n ≤ n := by
  unfold State.txCount
  split <;> exact Nat.min_le_right _ _

/-- The count depends on the transport's answers and the draw counter only. -/
theorem State.txCount_congr (t : State) (n : Nat) (ha : t.txAnswers = s.txAnswers) (hd : t.draws = s.draws) :
    t.txCount n = s.txCount n := by
  unfold State.txCount
  rw [ha, hd]

end Sys2Proof.Machine
end

