-- ==== Sys2Proof/Laws/Handshake.lean ====
section
/-! SUPPORT. What the handshake sequencer's operations can do: one write of a ROM entry, the count-down of a delay, the exit of a
step. -/

namespace Sys2Proof.Machine

/-- Every ROM row's meaning is the transmission of that row. -/
theorem exec_romInstr (slot : RomSlot) (h : Byte) (p : List Byte) (s : State) :
    exec (romInstr slot h p) s = .next (sendRow (romInstr slot h p) s) := by
  cases slot <;> rfl

/-- One write of a ROM entry ends in one of three ways (R178 to R180, R185). -/
theorem sendEntry_cases (s : State) (bytes : List Byte) (gap : Nat) :
    ∃ n, n = s.txCount bytes.length ∧ n ≤ bytes.length ∧
    ((n < bytes.length ∧ sendEntry s bytes gap = { s.wrote bytes n with link := .disconnected, connectOk := false, hsStep := .idle, hsTimer := 0, diag := s.diag ++ [.handshakeWriteFail s.romPtr n, .connectDone false] })
    ∨ (n = bytes.length ∧ s.romPtr + 1 = s.romK ∧ sendEntry s bytes gap = { s.wrote bytes n with romPtr := s.romPtr + 1, hsPolls := 0, hsTimer := 5, hsStep := .ackWait })
    ∨ (n = bytes.length ∧ s.romPtr + 1 ≠ s.romK ∧ sendEntry s bytes gap = { s.wrote bytes n with romPtr := s.romPtr + 1, hsTimer := gap, hsStep := .gap })) := by
  have hle := State.txCount_le s bytes.length
  refine ⟨_, rfl, hle, ?_⟩
  unfold sendEntry; rw [State.txWrite_eq]
  generalize s.txCount bytes.length = n at *
  by_cases h1 : n < bytes.length
  · left
    refine ⟨h1, ?_⟩
    have : shortWrite n bytes.length = true := by simp [shortWrite, h1]
    simp only [this, if_true, romWriteFail, State.failHandshake, State.emit, State.wrote]
    simp
  · right
    have h1 : n = bytes.length := by omega
    have : shortWrite n bytes.length = false := by simp [shortWrite, h1]
    simp only [this, romWriteOk]
    by_cases h2 : s.romPtr + 1 = s.romK
    · left
      refine ⟨h1, h2, ?_⟩
      rw [if_neg (by simp), if_pos (show (s.wrote bytes n).romPtr + 1 = (s.wrote bytes n).romK from h2)]
      simp [enterAckWait, State.delay, ackPollMs]
    · right
      refine ⟨h1, h2, ?_⟩
      rw [if_neg (by simp), if_neg (show ¬ (s.wrote bytes n).romPtr + 1 = (s.wrote bytes n).romK from h2)]
      simp [State.delay]

/-- The send step with a line at the ROM pointer is one write of its bytes (R178). -/
theorem sendStep_eq (s : State) (l : RomLine) (h : s.romLine? = some l) :
    sendStep s = sendEntry { s with hsStep := .send } (encode l.instr) l.gap := by
  have h' : State.romLine? { s with hsStep := .send } = some l := h
  unfold sendStep sendRow
  rw [h]
  dsimp only
  rw [h']
  simp

/-- A delay with more than one millisecond left counts down (R171). -/
theorem millisecond_count (s : State) (h : s.hsStep ≠ .idle) (ht : 1 < s.hsTimer) :
    millisecond s = { s with hsTimer := s.hsTimer - 1 } := by
  obtain ⟨t, ht⟩ : ∃ t, s.hsTimer = t + 2 := ⟨s.hsTimer - 2, by omega⟩
  simp [millisecond, h, ht]

/-- A delay with one millisecond left ends: the step's exit rule runs (R171). -/
theorem millisecond_exit (s : State) (h : s.hsStep ≠ .idle) (ht : s.hsTimer = 1) :
    millisecond s = exitStep { s with hsTimer := 0 } := by
  simp [millisecond, h, ht]

/-- Everything a millisecond can do: nothing, a count-down, the exit rule (R171). -/
theorem millisecond_cases (s : State) :
    ((s.hsStep = .idle ∨ s.hsTimer = 0) ∧ millisecond s = s)
      ∨ (s.hsStep ≠ .idle ∧ 1 < s.hsTimer ∧ millisecond s = { s with hsTimer := s.hsTimer - 1 })
      ∨ (s.hsStep ≠ .idle ∧ s.hsTimer = 1 ∧ millisecond s = exitStep { s with hsTimer := 0 }) := by
  by_cases hi : s.hsStep = .idle
  · exact .inl ⟨.inl hi, by simp [millisecond, hi]⟩
  by_cases h0 : s.hsTimer = 0
  · exact .inl ⟨.inr h0, by simp [millisecond, hi, h0]⟩
  by_cases h1 : s.hsTimer = 1
  · exact .inr (.inr ⟨hi, h1, millisecond_exit s hi h1⟩)
  · exact .inr (.inl ⟨hi, by omega, millisecond_count s hi (by omega)⟩)

end Sys2Proof.Machine
end

