-- ==== Sys2Proof/Laws/Outbound.lean ====
section
/-! SUPPORT. What the outbound encoder's operations can do. -/

namespace Sys2Proof.Machine

/-- The Generic unit, written out (R252). -/
theorem genericUnit_eq (d : Byte) : genericUnit d = [0xC0, d, 0xFF ^^^ 0xC0 ^^^ d] := rfl

/-- The EV3 unit, written out (R254). -/
theorem ev3Unit_eq (h lo hi : Byte) : ev3Unit h lo hi = [0x46, 0x00, 0xB9, h, lo, hi, 0xFF ^^^ h ^^^ lo ^^^ hi] := rfl

/-- One write of a unit: a short count loses the link, a whole one changes nothing more (R257, R258). -/
theorem sendUnit_eq (s : State) (u : List Byte) :
    sendUnit s u =
      if s.txCount u.length < u.length then (s.wrote u (s.txCount u.length)).loseLink (s.txCount u.length)
      else s.wrote u (s.txCount u.length) := by
  unfold sendUnit
  rw [State.txWrite_eq]
  simp [shortWrite]

/-- The header row of the EV3 unit carries the low three mode bits (R256). -/
theorem ev3HeaderOf_ev3ModeBits (m : ModeNum) : ev3HeaderOf (ev3ModeBits m) = ev3Header m := by
  revert m
  decide

/-- The low byte of the value by arithmetic (R101, R102). -/
theorem toNat_lowByte (v : Value) : (lowByte v).toNat = v.toNat % 256 := by simp [lowByte, BitVec.extractLsb'_toNat]

/-- The high byte of the value by arithmetic (R101). -/
theorem toNat_highByte (v : Value) : (highByte v).toNat = v.toNat / 256 := by
  have := v.isLt
  simp [highByte, BitVec.extractLsb'_toNat]
  rw [Nat.shiftRight_eq_div_pow]
  omega

end Sys2Proof.Machine
end

