-- ==== Sys2Proof/Laws/Parser.lean ====
section
/-! SUPPORT. What the byte machine of the parser can do: the phases over a payload, the fields it leaves alone, the drain as a fold
of it. -/

namespace Sys2Proof.Machine

/-- Bytes stored one by one from an index on; beyond the end they are not stored (R223). -/
def storeFrom {n : Nat} (v : Vector Byte n) : Nat → List Byte → Vector Byte n
  | _, [] => v
  | k, b :: bs => storeFrom (v.setIfInBounds k b) (k + 1) bs

/-- Element `i` after storing from index `k`. -/
theorem storeFrom_getElem {n : Nat} (bs : List Byte) (v : Vector Byte n) (k i : Nat) (hi : i < n) :
    (storeFrom v k bs)[i] = if k ≤ i then (bs[i - k]?).getD v[i] else v[i] := by
  induction bs generalizing v k with
  | nil => simp [storeFrom]
  | cons b bs ih =>
    rw [storeFrom, ih, Vector.getElem_setIfInBounds hi]
    by_cases h : k = i
    · subst h; simp
    · rw [if_neg h]
      by_cases h2 : k ≤ i
      · have : i - k = (i - (k + 1)) + 1 := by omega
        rw [if_pos h2, if_pos (by omega), this, List.getElem?_cons_succ]
      · rw [if_neg h2, if_neg (by omega)]

/-- A payload stored from index 0 over spaces is the padded payload (R225). -/
theorem storeFrom_spaces (bs : List Byte) : storeFrom spaces13 0 bs = padText bs := by
  apply Vector.ext
  intro i hi
  rw [storeFrom_getElem]
  simp [padText, spaces13]

/-- The exclusive-or fold the accumulator runs. -/
theorem checksum_cons (b : Byte) (bs : List Byte) : checksum (b :: bs) = bs.foldl (fun acc b => acc ^^^ b) (0xFF ^^^ b) := rfl

/-- The rule `parse_byte` selects by the phase (R211). -/
theorem parseByte_cases (s : State) (b : Byte) (P : State → Prop) (hI : s.ph = .idle → P (parseIdle s b))
    (hS : s.ph = .selM → P (parseSelM s b)) (hSc : s.ph = .selCk → P (parseSelCk s b)) (h0 : s.ph = .wdM0 → P (parseWdM0 s b))
    (h1 : s.ph = .wdM1 → P (parseWdM1 s b)) (hSm : s.ph = .wdSm → P (parseWdSm s b)) (hP : s.ph = .wdPay → P (parseWdPay s b))
    (hC : s.ph = .wdCk → P (parseWdCk s b)) (hB : s.ph = .cbPay → P (parseCbPay s b)) (hBc : s.ph = .cbCk → P (parseCbCk s b)) :
    P (parseByte s b) := by
  unfold parseByte
  split <;> simp_all only [forall_const]

/-- The parser neither reads nor writes the FIFO. -/
theorem parseByte_rxFifo (s : State) (b : Byte) (r : List Byte) :
    parseByte { s with rxFifo := r } b = { parseByte s b with rxFifo := r } := by
  refine parseByte_cases s b (fun t => parseByte { s with rxFifo := r } b = { t with rxFifo := r })
    ?_ ?_ ?_ ?_ ?_ ?_ ?_ ?_ ?_ ?_ <;> intro h <;> simp only [parseByte, h]
  · unfold parseIdle; split_ifs <;> simp only [State.emit, State.profile, h]
  · simp only [parseSelM]
  · unfold parseSelCk; split_ifs <;> rfl
  · simp only [parseWdM0]
  · unfold parseWdM1; dsimp only [State.profile]; split_ifs <;> rfl
  · simp only [parseWdSm]
  · simp only [parseWdPay]
  · unfold parseWdCk; split_ifs <;> rfl
  · simp only [parseCbPay]
  · unfold parseCbCk; split_ifs <;> rfl

/-- The fields a received byte may change: mode, text, the parser's scratch, the diagnostic output. Every other is as it was. -/
theorem parseByte_frame (s : State) (b : Byte) :
    { parseByte s b with
      mode := s.mode, text := s.text, diag := s.diag, ph := s.ph, acc := s.acc, cnt := s.cnt, idx := s.idx, bank := s.bank
      m0 := s.m0, sm := s.sm, selM := s.selM, cb := s.cb, stage := s.stage } = s := by
  refine parseByte_cases s b (fun t => { t with
      mode := s.mode, text := s.text, diag := s.diag, ph := s.ph, acc := s.acc, cnt := s.cnt, idx := s.idx, bank := s.bank
      m0 := s.m0, sm := s.sm, selM := s.selM, cb := s.cb, stage := s.stage } = s) ?_ ?_ ?_ ?_ ?_ ?_ ?_ ?_ ?_ ?_ <;> intro _
  · unfold parseIdle; split_ifs <;> rfl
  · rfl
  · unfold parseSelCk; split_ifs <;> rfl
  · rfl
  · unfold parseWdM1; split_ifs <;> rfl
  · rfl
  · rfl
  · unfold parseWdCk; split_ifs <;> rfl
  · rfl
  · unfold parseCbCk; split_ifs <;> rfl

theorem parseByte_idle (s : State) (b : Byte) (h : s.ph = .idle) : parseByte s b = parseIdle s b := by
  simp only [parseByte, h]

theorem parseByte_selM (s : State) (b : Byte) (h : s.ph = .selM) : parseByte s b = parseSelM s b := by
  simp only [parseByte, h]

theorem parseByte_selCk (s : State) (b : Byte) (h : s.ph = .selCk) : parseByte s b = parseSelCk s b := by
  simp only [parseByte, h]

theorem parseByte_wdM0 (s : State) (b : Byte) (h : s.ph = .wdM0) : parseByte s b = parseWdM0 s b := by
  simp only [parseByte, h]

theorem parseByte_wdM1 (s : State) (b : Byte) (h : s.ph = .wdM1) : parseByte s b = parseWdM1 s b := by
  simp only [parseByte, h]

theorem parseByte_wdSm (s : State) (b : Byte) (h : s.ph = .wdSm) : parseByte s b = parseWdSm s b := by
  simp only [parseByte, h]

theorem parseByte_wdPay (s : State) (b : Byte) (h : s.ph = .wdPay) : parseByte s b = parseWdPay s b := by
  simp only [parseByte, h]

theorem parseByte_wdCk (s : State) (b : Byte) (h : s.ph = .wdCk) : parseByte s b = parseWdCk s b := by
  simp only [parseByte, h]

theorem parseByte_cbPay (s : State) (b : Byte) (h : s.ph = .cbPay) : parseByte s b = parseCbPay s b := by
  simp only [parseByte, h]

theorem parseByte_cbCk (s : State) (b : Byte) (h : s.ph = .cbCk) : parseByte s b = parseCbCk s b := by
  simp only [parseByte, h]

/-- `SELECT` begins (R214). -/
theorem parseByte_select (s : State) (h : s.ph = .idle) : parseByte s 0x43 = { s with acc := 0xFF ^^^ 0x43, ph := .selM } := by
  rw [parseByte_idle s _ h]; rfl

/-- `WRITE_DATA` begins (R218). -/
theorem parseByte_writeData (s : State) (h : s.ph = .idle) : parseByte s 0x46 = { s with ph := .wdM0 } := by
  rw [parseByte_idle s _ h]; rfl

/-- `COMBO` begins (R228). -/
theorem parseByte_combo (s : State) (h : s.ph = .idle) :
    parseByte s 0x4C = { s with acc := 0xFF ^^^ 0x4C, cnt := comboLen s.profile, idx := 0, ph := .cbPay } := by
  rw [parseByte_idle s _ h]; rfl

/-- An unrecognised leading byte is reported (R231). -/
theorem parseByte_unknown (s : State) (b : Byte) (h : s.ph = .idle) (hb : recognisedLeading b = false) :
    parseByte s b = s.emit (.unknown b) := by
  simp [recognisedLeading] at hb
  simp [parseByte_idle s _ h, parseIdle, hb]

theorem parseBytes_nil (s : State) : parseBytes s [] = s := rfl

theorem parseBytes_cons (s : State) (b : Byte) (bs : List Byte) :
    parseBytes s (b :: bs) = parseBytes (parseByte s b) bs := rfl

theorem parseBytes_append (s : State) (a b : List Byte) : parseBytes s (a ++ b) = parseBytes (parseBytes s a) b :=
  List.foldl_append

theorem parseBytes_rxFifo (s : State) (bs r : List Byte) :
    parseBytes { s with rxFifo := r } bs = { parseBytes s bs with rxFifo := r } := by
  induction bs generalizing s with
  | nil => rfl
  | cons b bs ih => rw [parseBytes_cons, parseByte_rxFifo, ih, parseBytes_cons]

/-- The drain's loop over a non-empty string is the byte machine over it, with the FIFO emptied to what follows. -/
theorem drainLoop_append (a b : List Byte) (s : State) (ha : a ≠ []) :
    drainLoop (a ++ b) s = drainLoop b { parseBytes s a with rxFifo := b } := by
  induction a generalizing s with
  | nil => exact absurd rfl ha
  | cons x a ih =>
    rw [List.cons_append, drainLoop]
    cases a with
    | nil => rw [List.nil_append, parseByte_rxFifo]; rfl
    | cons y a =>
      rw [ih _ (by simp), parseByte_rxFifo, parseBytes_rxFifo]
      rfl

/-- The drain's loop as one fold. -/
theorem drainLoop_eq (bs : List Byte) (s : State) :
    drainLoop bs s = { parseBytes s bs with rxFifo := if bs = [] then s.rxFifo else [] } := by
  cases bs with
  | nil => rfl
  | cons b bs =>
    have := drainLoop_append (b :: bs) [] s (by simp)
    rw [List.append_nil] at this
    rw [this]; rfl

/-- A part of a WRITE-DATA payload that is not the last: the phase stays (R222, R223). -/
theorem parseBytes_wdPay_part (bs : List Byte) (s : State) (hp : s.ph = .wdPay) (hc : bs.length < s.cnt) :
    parseBytes s bs = { s with
      stage := storeFrom s.stage s.idx bs, acc := bs.foldl (fun acc b => acc ^^^ b) s.acc
      idx := s.idx + bs.length, cnt := s.cnt - bs.length } := by
  induction bs generalizing s with
  | nil => rfl
  | cons b bs ih =>
    simp only [List.length_cons] at hc
    have h1 : parseByte s b = { s with
        stage := s.stage.setIfInBounds s.idx b, acc := s.acc ^^^ b, idx := s.idx + 1, cnt := s.cnt - 1 } := by
      simp only [parseByte, hp, parseWdPay]
      rw [if_neg (by omega)]
    rw [parseBytes_cons, h1, ih]
    · simp only [storeFrom, List.foldl_cons, List.length_cons]
      congr 1 <;> omega
    · exact hp
    · simp only; omega

/-- A whole WRITE-DATA payload: the checksum byte is next (R222, R223). -/
theorem parseBytes_wdPay (bs : List Byte) (s : State) (hp : s.ph = .wdPay) (hc : s.cnt = bs.length) (hb : bs ≠ []) :
    parseBytes s bs = { s with
      stage := storeFrom s.stage s.idx bs, acc := bs.foldl (fun acc b => acc ^^^ b) s.acc
      idx := s.idx + bs.length, cnt := 0, ph := .wdCk } := by
  induction bs generalizing s with
  | nil => exact absurd rfl hb
  | cons b bs ih =>
    simp only [List.length_cons] at hc
    cases bs with
    | nil => simp [parseBytes, parseByte, hp, parseWdPay, hc, storeFrom]
    | cons c bs =>
      have h1 : parseByte s b = { s with
          stage := s.stage.setIfInBounds s.idx b, acc := s.acc ^^^ b, idx := s.idx + 1, cnt := s.cnt - 1 } := by
        simp only [List.length_cons] at hc
        simp only [parseByte, hp, parseWdPay]
        rw [if_neg (by omega)]
      rw [parseBytes_cons, h1, ih]
      · simp only [storeFrom, List.foldl_cons, List.length_cons]
        congr 1; omega
      · exact hp
      · simp only; omega
      · simp

/-- A part of a COMBO payload that is not the last (R229). -/
theorem parseBytes_cbPay_part (bs : List Byte) (s : State) (hp : s.ph = .cbPay) (hc : bs.length < s.cnt) :
    parseBytes s bs = { s with
      cb := storeFrom s.cb s.idx bs, acc := bs.foldl (fun acc b => acc ^^^ b) s.acc
      idx := s.idx + bs.length, cnt := s.cnt - bs.length } := by
  induction bs generalizing s with
  | nil => rfl
  | cons b bs ih =>
    simp only [List.length_cons] at hc
    have h1 : parseByte s b = { s with
        cb := s.cb.setIfInBounds s.idx b, acc := s.acc ^^^ b, idx := s.idx + 1, cnt := s.cnt - 1 } := by
      simp only [parseByte, hp, parseCbPay]
      rw [if_neg (by omega)]
    rw [parseBytes_cons, h1, ih]
    · simp only [storeFrom, List.foldl_cons, List.length_cons]
      congr 1 <;> omega
    · exact hp
    · simp only; omega

/-- A whole COMBO payload: the checksum byte is next (R229). -/
theorem parseBytes_cbPay (bs : List Byte) (s : State) (hp : s.ph = .cbPay) (hc : s.cnt = bs.length) (hb : bs ≠ []) :
    parseBytes s bs = { s with
      cb := storeFrom s.cb s.idx bs, acc := bs.foldl (fun acc b => acc ^^^ b) s.acc
      idx := s.idx + bs.length, cnt := 0, ph := .cbCk } := by
  induction bs generalizing s with
  | nil => exact absurd rfl hb
  | cons b bs ih =>
    simp only [List.length_cons] at hc
    cases bs with
    | nil => simp [parseBytes, parseByte, hp, parseCbPay, hc, storeFrom]
    | cons c bs =>
      have h1 : parseByte s b = { s with
          cb := s.cb.setIfInBounds s.idx b, acc := s.acc ^^^ b, idx := s.idx + 1, cnt := s.cnt - 1 } := by
        simp only [List.length_cons] at hc
        simp only [parseByte, hp, parseCbPay]
        rw [if_neg (by omega)]
      rw [parseBytes_cons, h1, ih]
      · simp only [storeFrom, List.foldl_cons, List.length_cons]
        congr 1; omega
      · exact hp
      · simp only; omega
      · simp

theorem declaredLength_pos (b : Byte) : 0 < declaredLength b := Nat.two_pow_pos _

/-- The declared length by arithmetic on the byte's value (R99). -/
theorem declaredLength_eq (b : Byte) : declaredLength b = 2 ^ (b.toNat / 8 % 8) := by
  unfold declaredLength lengthCode
  revert b
  decide

/-- `wmode` by arithmetic on the byte's value (R99). -/
theorem wmode_eq (b : Byte) (k : Bool) : wmode b k = b.toNat % 8 + if k then 8 else 0 := by
  unfold wmode
  revert b k
  decide

/-- Size/mode byte and whole payload: the accumulator holds their checksum, the staging copy the padded payload (R221 to R223). -/
theorem parseBytes_dataFrame (s : State) (sm : Byte) (pl : List Byte) (h : s.ph = .wdSm) (hl : pl.length = declaredLength sm) :
    parseBytes s (sm :: pl) = { s with
      sm := sm, acc := checksum (sm :: pl), cnt := 0, idx := pl.length, stage := padText pl, ph := .wdCk } := by
  have hne : pl ≠ [] := by
    have := declaredLength_pos sm
    rintro rfl
    simp at hl; omega
  rw [parseBytes_cons, parseByte_wdSm s _ h, parseBytes_wdPay pl _ rfl hl.symm hne]
  simp only [parseWdSm, Nat.zero_add, storeFrom_spaces, checksum_cons]

/-- `SELECT` up to its mode byte: the accumulator holds the checksum of both bytes (R214, R215). -/
theorem parseBytes_selectPrefix (s : State) (m : Byte) (h : s.ph = .idle) :
    parseBytes s [0x43, m] = { s with selM := m, acc := 0xFF ^^^ 0x43 ^^^ m, ph := .selCk } := by
  rw [parseBytes_cons, parseByte_select s h, parseBytes_cons, parseBytes_nil]
  exact parseByte_selM _ m rfl

/-- `WRITE_DATA` up to accepted markers: the size/mode byte is next (R218 to R220). -/
theorem parseBytes_markers (s : State) (m0 m1 : Byte) (h : s.ph = .idle) (hm : markersAccepted s.profile m0 m1 = true) :
    parseBytes s [0x46, m0, m1] = { s with m0 := m0, bank := bankOf m0, ph := .wdSm } := by
  rw [parseBytes_cons, parseByte_writeData s h, parseBytes_cons, parseBytes_cons, parseBytes_nil]
  exact if_pos hm

/-- `WRITE_DATA` with refused markers ends at the second of them (R220, R108). -/
theorem parseBytes_refusedMarkers (s : State) (m0 m1 : Byte) (h : s.ph = .idle) (hm : markersAccepted s.profile m0 m1 = false) :
    parseBytes s [0x46, m0, m1] = ({ s with m0 := m0, ph := .idle }).emit (.droppedMarkerMismatch m0 m1) := by
  rw [parseBytes_cons, parseByte_writeData s h, parseBytes_cons, parseBytes_cons, parseBytes_nil]
  exact if_neg (Bool.eq_false_iff.mp hm)

/-- `COMBO` up to its whole payload (R228, R229). -/
theorem parseBytes_comboPayload (s : State) (data : List Byte) (h : s.ph = .idle) (hl : data.length = comboLen s.profile) :
    parseBytes s (0x4C :: data) = { s with
      acc := checksum (0x4C :: data), cnt := 0, idx := data.length, cb := storeFrom s.cb 0 data, ph := .cbCk } := by
  have hne : data ≠ [] := by
    have : 0 < comboLen s.profile := by cases s.profile <;> decide
    rintro rfl
    simp at hl; omega
  rw [parseBytes_cons, parseByte_combo s h, parseBytes_cbPay data _ rfl hl.symm hne]
  simp only [Nat.zero_add, checksum_cons]

/-- The COMBO payload is read back whole (R230). -/
theorem storeFrom_cb (p : Profile) (v : Vector Byte 2) (data : List Byte) (hl : data.length = comboLen p) :
    (storeFrom v 0 data).toList.take (comboLen p) = data := by
  apply List.ext_getElem
  · cases p <;> simp_all [comboLen]
  · intro i h1 h2
    rw [List.getElem_take, Vector.getElem_toList, storeFrom_getElem]
    simp [h2]

/-- The drain of a message in progress or of none leaves every field but those of `parseByte_frame` as it was. -/
theorem parseBytes_frame (s : State) (bs : List Byte) :
    { parseBytes s bs with
      mode := s.mode, text := s.text, diag := s.diag, ph := s.ph, acc := s.acc, cnt := s.cnt, idx := s.idx, bank := s.bank
      m0 := s.m0, sm := s.sm, selM := s.selM, cb := s.cb, stage := s.stage } = s := by
  induction bs generalizing s with
  | nil => rfl
  | cons b bs ih =>
    rw [parseBytes_cons]
    have h1 := ih (parseByte s b)
    have h2 := parseByte_frame s b
    generalize parseBytes (parseByte s b) bs = u at *
    generalize parseByte s b = v at *
    cases u; cases v; cases s
    simp only [State.mk.injEq] at *
    simp_all

/-- In its context a message of steady state is the byte machine over its bytes (R211). -/
theorem exec_eq_parseBytes (p : Profile) (i : Instr) (s : State) (hi : contextOf i = some .steady) (hr : s.parserReady = true)
    (hw : wellFormed p i = true) : exec i s = .next (parseBytes s (encode i)) := by
  cases i <;> simp only [contextOf, reduceCtorEq, Option.some.injEq] at hi
  · simp only [exec, execNop0, State.takeMessage, hr, encode, if_true]
  · simp only [exec, execKeepalive, State.takeMessage, hr, encode, if_true]
  · simp only [exec, execSelect, State.takeMessage, hr, encode, if_true]
  · rename_i m0 m1 d
    cases d <;> simp only [exec, execWriteData, State.takeMessage, hr, encode, if_true]
  · simp only [exec, execCombo, State.takeMessage, hr, encode, if_true]
  · rename_i b
    have hp : s.ph = .idle := by simp [State.parserReady] at hr; exact hr.2
    simp only [wellFormed, Bool.not_eq_true'] at hw
    simp only [exec, execUnknown, hr, encode, if_true, parseBytes_cons, parseByte_unknown s b hp hw, parseBytes_nil]

/-- Bytes that end inside a message leave the parser in the phase named, and mode, text and events as they were (R212). -/
theorem parseBytes_truncated (s : State) (bs : List Byte) (ph : Phase) (hp : s.ph = .idle) (h : decodeSteady s.profile bs = .rejected (.truncated ph)) :
    (parseBytes s bs).ph = ph ∧ (parseBytes s bs).mode = s.mode ∧ (parseBytes s bs).text = s.text ∧ (parseBytes s bs).diag = s.diag := by
  rcases bs with _ | ⟨b, r⟩
  · simp [decodeSteady] at h
  simp only [decodeSteady] at h
  split at h
  · cases h
  split at h
  · cases h
  split at h
  · subst_vars
    rcases r with _ | ⟨m, _ | ⟨ck, r⟩⟩ <;> simp only [decodeSelect] at h <;> cases h
    · rw [parseBytes_cons, parseBytes_nil, parseByte_select s hp]; exact ⟨rfl, rfl, rfl, rfl⟩
    · rw [parseBytes_selectPrefix s m hp]; exact ⟨rfl, rfl, rfl, rfl⟩
  split at h
  · subst_vars
    rcases r with _ | ⟨m0, _ | ⟨m1, r⟩⟩ <;> simp only [decodeWriteData] at h
    · cases h; rw [parseBytes_cons, parseBytes_nil, parseByte_writeData s hp]; exact ⟨rfl, rfl, rfl, rfl⟩
    · cases h; rw [parseBytes_cons, parseBytes_cons, parseBytes_nil, parseByte_writeData s hp, parseByte_wdM0 _ _ rfl]; exact ⟨rfl, rfl, rfl, rfl⟩
    · split at h
      · rename_i hm
        rw [show (0x46 :: m0 :: m1 :: r : List Byte) = [0x46, m0, m1] ++ r from rfl, parseBytes_append, parseBytes_markers s m0 m1 hp hm]
        rcases r with _ | ⟨sm, r⟩ <;> simp only [decodeDataFrame] at h
        · cases h; exact ⟨rfl, rfl, rfl, rfl⟩
        split at h
        · rename_i hlen
          cases h
          rw [parseBytes_cons, parseByte_wdSm _ _ rfl, parseBytes_wdPay_part _ _ rfl hlen]; exact ⟨rfl, rfl, rfl, rfl⟩
        · rename_i hlen
          split at h
          · rename_i hd
            have hr : r.length = declaredLength sm := by
              have := congrArg List.length hd; simp at this; omega
            cases h
            rw [parseBytes_dataFrame _ _ _ rfl hr]; exact ⟨rfl, rfl, rfl, rfl⟩
          · cases h
      · cases h
  split at h
  · subst_vars
    simp only [decodeCombo] at h
    split at h
    · rename_i hlen
      cases h
      rw [parseBytes_cons, parseByte_combo s hp, parseBytes_cbPay_part _ _ rfl hlen]; exact ⟨rfl, rfl, rfl, rfl⟩
    · split at h
      · rename_i hlen _ hd
        have hr : r.length = comboLen s.profile := by
          have := congrArg List.length hd; simp at this; omega
        cases h
        rw [parseBytes_comboPayload s r hp hr]; exact ⟨rfl, rfl, rfl, rfl⟩
      · cases h
  · cases h

/-- A whole message does to mode, text and events what the function of R240 does, and leaves the parser idle (R241). -/
theorem parseBytes_message (p : Profile) (i : Instr) (s : State) (hp : s.ph = .idle) (hpr : s.profile = p) (hi : contextOf i = some .steady) (hw : wellFormed p i = true) (r : DrainResult)
   (hm : r.mode = s.mode) (ht : r.text = s.text) :
   (parseBytes s (encode i)).ph = .idle ∧ (parseBytes s (encode i)).mode = (r.message i).mode ∧ (parseBytes s (encode i)).text = (r.message i).text
    ∧ ∃ d, (parseBytes s (encode i)).diag = s.diag ++ d ∧ (r.message i).events = r.events ++ d := by
  cases i <;> simp only [contextOf, reduceCtorEq, Option.some.injEq] at hi
  · have : parseBytes s (encode .nop0) = s := by rw [encode, parseBytes_cons, parseByte_idle s _ hp]; rfl
    rw [this]; exact ⟨hp, hm.symm, ht.symm, [], by simp, by simp [DrainResult.message]⟩
  · have : parseBytes s (encode .keepalive) = s := by rw [encode, parseBytes_cons, parseByte_idle s _ hp]; rfl
    rw [this]; exact ⟨hp, hm.symm, ht.symm, [], by simp, by simp [DrainResult.message]⟩
  · rename_i m ck
    rw [show encode (.select m ck) = [0x43, m] ++ [ck] from rfl, parseBytes_append, parseBytes_selectPrefix s m hp, parseBytes_cons, parseBytes_nil, parseByte_selCk _ _ rfl]
    have hc : Machine.checksum [0x43, m] = 0xFF ^^^ 0x43 ^^^ m := rfl
    unfold parseSelCk modeInRange
    simp only [DrainResult.message, DrainResult.select, hc]
    by_cases h : ck = 0xFF ^^^ 0x43 ^^^ m
    · by_cases h2 : m.toNat ≤ 15 <;> simp [h, h2, hm, ht]
    · simp only [if_neg h]; simp [hm, ht]
  · rename_i m0 m1 d
    rcases d with _ | d
    · have hm' : markersAccepted s.profile m0 m1 = false := by rw [hpr]; simpa [wellFormed] using hw
      simp only [encode, parseBytes_refusedMarkers s m0 m1 hp hm', DrainResult.message, DrainResult.writeData]
      simp [hm, ht]
    · simp [wellFormed] at hw
      obtain ⟨hm', hlen⟩ := hw
      rw [← hpr] at hm'
      rw [show encode (.writeData m0 m1 (some d)) = [0x46, m0, m1] ++ ((d.sizeMode :: d.payload) ++ [d.ck]) from rfl,
        parseBytes_append, parseBytes_markers s m0 m1 hp hm', parseBytes_append, parseBytes_dataFrame _ _ _ rfl hlen]
      rw [parseBytes_cons, parseBytes_nil, parseByte_wdCk _ _ rfl]
      unfold parseWdCk
      simp only [DrainResult.message, DrainResult.writeData]
      by_cases h : d.ck = Machine.checksum (d.sizeMode :: d.payload)
      · simp only [if_pos h]; simp [hm, bankOf]
      · simp only [if_neg h]; simp [hm, ht]
  · rename_i data ck
    have hc : data.length = comboLen s.profile := by rw [hpr]; simpa [wellFormed] using hw
    rw [show encode (.combo data ck) = (0x4C :: data) ++ [ck] from rfl, parseBytes_append, parseBytes_comboPayload s data hp hc, parseBytes_cons, parseBytes_nil, parseByte_cbCk _ _ rfl]
    have e3 := storeFrom_cb s.profile s.cb data hc
    unfold parseCbCk
    simp only [DrainResult.message, DrainResult.combo]
    by_cases h : ck = Machine.checksum (0x4C :: data)
    · simp only [if_pos h]; simp [hm, ht]; exact e3.symm
    · simp only [if_neg h]; simp [hm, ht]
  · rename_i b
    simp only [encode, parseBytes_cons, parseBytes_nil, parseByte_unknown s b hp (by simpa [wellFormed] using hw), DrainResult.message]
    simp [hm, ht, hp]

/-- The byte machine leaves the profile as it is. -/
theorem parseBytes_profile (s : State) (bs : List Byte) : (parseBytes s bs).profile = s.profile :=
  congrArg (fun t => t.cfg.profile) (parseBytes_frame s bs)

/-- A row of steady state has at least one byte. -/
theorem encode_ne_nil (i : Instr) (h : contextOf i = some .steady) : encode i ≠ [] := by
  intro h0
  cases i <;> simp [contextOf] at h <;> simp [encode] at h0
  rename_i d
  cases d <;> simp [encode] at h0

/-- The drain through the byte machine (R211, R212). -/
theorem drain_eq (s : State) :
    drain s = { endOfDrain (parseBytes { s with ph := .idle } s.rxFifo) with rxFifo := [] } := by
  have e : drain s = endOfDrain { parseBytes { s with ph := .idle } s.rxFifo with rxFifo := [] } := by
    rw [drain, drainLoop_eq]
    split
    · rename_i h; rw [h]
    · rfl
  rw [e]
  unfold endOfDrain
  dsimp only
  split <;> rfl

end Sys2Proof.Machine
end

