-- ==== Sys2Proof/Laws/PerInstr.lean ====
section
/-! SUPPORT. Statements about every instruction, one lemma per constructor. Family RoundTrip: in the context that holds the
instruction, decoding its encoding gives it back. -/

namespace Sys2Proof.Laws.RoundTrip
open Sys2Proof.Machine

/-- Decoding the encoding of a well-formed instruction, in its context, gives it and the bytes behind it; a ROM entry has nothing
behind it. -/
def Statement (i : Instr) : Prop :=
  ∀ (p : Profile) (c : Context) (rest : List Byte),
    contextOf i = some c → wellFormed p i = true → ((∃ slot, c = .rom slot) → rest = []) →
      decode p c (encode i ++ rest) = .ok i rest

/-- An instruction without a context has nothing to show. -/
theorem of_no_context {i : Instr} (h : contextOf i = none) : Statement i := by
  intro p c rest hc
  simp [h] at hc

/-- An instruction of a context with nothing asked of what stands behind it. -/
theorem of_context {i : Instr} (c : Context) (h : contextOf i = some c)
    (hd : ∀ p rest, wellFormed p i = true → decode p c (encode i ++ rest) = .ok i rest) : Statement i := by
  intro p c' rest hc hw _
  obtain rfl : c = c' := Option.some.inj (h.symm.trans hc)
  exact hd p rest hw

/-- A ROM row, decoded whole. -/
theorem of_rom {i : Instr} (slot : RomSlot) (h : contextOf i = some (.rom slot))
    (hd : ∀ p, wellFormed p i = true → decodeRom slot (encode i) = .ok i []) : Statement i := by
  intro p c rest hc hw hr
  obtain rfl : Context.rom slot = c := Option.some.inj (h.symm.trans hc)
  obtain rfl := hr ⟨slot, rfl⟩
  rw [List.append_nil]
  exact hd p hw

/-- A frame of the ROM in its slot. -/
theorem of_romFrame (slot : RomSlot) (h : Byte) (pl : List Byte) (hs : isFrameSlot slot = true)
    (hc : contextOf (romInstr slot h pl) = some (.rom slot))
    (hw : ∀ p, wellFormed p (romInstr slot h pl) = !pl.isEmpty)
    (he : encode (romInstr slot h pl) = buildFrame h pl) : Statement (romInstr slot h pl) := by
  refine of_rom slot hc (fun p hp => ?_)
  have hne : pl ≠ [] := by simpa [hw p] using hp
  rw [he, decodeRom_frameSlot slot _ hs, decodeRomFrame_buildFrame slot h pl hne]

theorem nop0 : Statement .nop0 := of_context .steady rfl (fun _ _ _ => rfl)

theorem keepalive : Statement .keepalive := of_context .steady rfl (fun _ _ _ => rfl)

theorem select (m ck : Byte) : Statement (.select m ck) := of_context .steady rfl (fun _ _ _ => rfl)

theorem writeData (m0 m1 : Byte) (data : Option DataFrame) : Statement (.writeData m0 m1 data) := by
  refine of_context .steady rfl (fun p rest hw => ?_)
  cases data with
  | none =>
    simp only [wellFormed, Bool.not_eq_true'] at hw
    simp [decode, encode, decodeSteady, decodeWriteData, hw]
  | some d =>
    simp only [wellFormed, Bool.and_eq_true, beq_iff_eq] at hw
    simp [decode, encode, decodeSteady, decodeWriteData, hw.1, encodeDataFrame, decodeDataFrame_encode _ _ _ _ _ _ hw.2]

theorem combo (data : List Byte) (ck : Byte) : Statement (.combo data ck) := by
  refine of_context .steady rfl (fun p rest hw => ?_)
  simp only [wellFormed, beq_iff_eq] at hw
  simp [decode, encode, decodeSteady, decodeCombo_encode p data rest ck hw]

theorem unknown (b : Byte) : Statement (.unknown b) := by
  refine of_context .steady rfl (fun p rest hw => ?_)
  simp only [wellFormed, Bool.not_eq_true'] at hw
  exact decodeSteady_unknown p b rest hw

theorem ackEcho : Statement .ackEcho := of_context .ackWait rfl (fun _ _ _ => rfl)

theorem ackwaitDiscard (b : Byte) : Statement (.ackwaitDiscard b) := by
  refine of_context .ackWait rfl (fun p rest hw => ?_)
  simp only [wellFormed, bne_iff_ne] at hw
  simp [decode, encode, decodeAckWait, hw]

theorem sync : Statement .sync := of_rom .sync rfl (fun _ _ => rfl)

theorem ack : Statement .ack := of_rom .ack rfl (fun _ _ => rfl)

theorem type (h : Byte) (pl : List Byte) : Statement (.type h pl) := of_romFrame .type h pl rfl rfl (fun _ => rfl) rfl

theorem modes (h : Byte) (pl : List Byte) : Statement (.modes h pl) := of_romFrame .modes h pl rfl rfl (fun _ => rfl) rfl

theorem speed (h : Byte) (pl : List Byte) : Statement (.speed h pl) := of_romFrame .speed h pl rfl rfl (fun _ => rfl) rfl

theorem version (h : Byte) (pl : List Byte) : Statement (.version h pl) := of_romFrame .version h pl rfl rfl (fun _ => rfl) rfl

theorem infoName (h : Byte) (pl : List Byte) : Statement (.infoName h pl) := of_romFrame .infoName h pl rfl rfl (fun _ => rfl) rfl

theorem infoRaw (h : Byte) (pl : List Byte) : Statement (.infoRaw h pl) := of_romFrame .infoRaw h pl rfl rfl (fun _ => rfl) rfl

theorem infoPct (h : Byte) (pl : List Byte) : Statement (.infoPct h pl) := of_romFrame .infoPct h pl rfl rfl (fun _ => rfl) rfl

theorem infoSi (h : Byte) (pl : List Byte) : Statement (.infoSi h pl) := of_romFrame .infoSi h pl rfl rfl (fun _ => rfl) rfl

theorem infoSymbol (h : Byte) (pl : List Byte) : Statement (.infoSymbol h pl) := of_romFrame .infoSymbol h pl rfl rfl (fun _ => rfl) rfl

theorem infoMapping (h : Byte) (pl : List Byte) : Statement (.infoMapping h pl) := of_romFrame .infoMapping h pl rfl rfl (fun _ => rfl) rfl

theorem infoFormat (h : Byte) (pl : List Byte) : Statement (.infoFormat h pl) := of_romFrame .infoFormat h pl rfl rfl (fun _ => rfl) rfl

theorem dataGeneric (d ck : Byte) : Statement (.dataGeneric d ck) := by
  refine of_context .outbound rfl (fun p rest hw => ?_)
  simp only [wellFormed, Bool.and_eq_true, beq_iff_eq] at hw
  simp [decode, encode, decodeOutbound, hw.1]

theorem dataEv3 (k : BitVec 3) (lo hi ck : Byte) : Statement (.dataEv3 k lo hi ck) := by
  refine of_context .outbound rfl (fun p rest hw => ?_)
  simp only [wellFormed, Bool.and_eq_true, beq_iff_eq] at hw
  have hm := ev3HeaderOf_mask k
  simp only [decode, encode, decodeOutbound, hw.1, List.cons_append, List.nil_append, hm, and_self, if_true,
    lowField_ev3HeaderOf]

theorem connect : Statement .connect := of_no_context rfl

theorem tick : Statement .tick := of_no_context rfl

theorem setValue (v : Int) : Statement (.setValue v) := of_no_context rfl

theorem getMode : Statement .getMode := of_no_context rfl

theorem isConnected : Statement .isConnected := of_no_context rfl

theorem getText : Statement .getText := of_no_context rfl

theorem ms : Statement .ms := of_no_context rfl

theorem rx (b : Byte) : Statement (.rx b) := of_no_context rfl

theorem reset : Statement .reset := of_no_context rfl

theorem checksum (bytes : List Byte) : Statement (.checksum bytes) := of_no_context rfl

theorem buildFrame (h : Byte) (pl : List Byte) : Statement (.buildFrame h pl) := of_no_context rfl

theorem verifyFrame (r : List Byte) : Statement (.verifyFrame r) := of_no_context rfl

end Sys2Proof.Laws.RoundTrip
end

