-- ==== Sys2Proof/Laws/Step.lean ====
section
/-! SUPPORT. What a step can do, and the invariant of R50 as a conjunction. -/

namespace Sys2Proof.Machine

/-- A step with an event to come executes its host operation without it (R12, R80). -/
theorem step_event (s t : State) (e : Event) (rest : List Event) (hi : s.inputs = e :: rest) (h : step s = .next t) :
    exec e.instr { s with inputs := rest } = .next t := by
  simpa only [step, State.nextEvent, hi] using h

/-- Everything a step can be: idle, or one event. -/
theorem step_cases (s t : State) (h : step s = .next t) :
    (s.inputs = [] ∧ t = s) ∨ ∃ e rest, s.inputs = e :: rest ∧ exec e.instr { s with inputs := rest } = .next t := by
  rcases hi : s.inputs with _ | ⟨e, rest⟩
  · simp only [step, State.nextEvent, hi] at h
    cases h
    exact .inl ⟨rfl, rfl⟩
  · exact .inr ⟨e, rest, rfl, step_event s t e rest hi h⟩

/-- The invariant, clause by clause (R35, R37, R38, R50). -/
theorem State.inv_iff (s : State) : s.inv = true ↔ (s.rxFifo.length ≤ s.cfg.rxDepth ∧ s.ph = .idle ∧ s.sequencerOk = true
    ∧ (s.link = .connected → s.line = .uart ∧ s.baud = finalBaud) ∧ s.romPtr ≤ s.romK ∧ s.hsPolls ≤ ackPolls) := by
  unfold State.inv
  cases h : s.link <;> simp [and_assoc]

/-- The invariant says nothing of the events to come. -/
theorem State.inv_inputs (s : State) (r : List Event) : State.inv { s with inputs := r } = s.inv := rfl

end Sys2Proof.Machine
end

