-- ==== Sys2Proof/Tests/Slice0.lean ====
section
/-! SUPPORT. Tests of one step or one function each. Expected values are those of 95_test_vectors.md (section named at each
group) or computed by hand from the rule named. The witnesses show that the hypotheses of every statement can be met. -/

namespace Sys2Proof.Tests
open Sys2Proof Sys2Proof.Machine

/-! ### Helpers -/

/-- The state after an outcome, if it is a next state. -/
def after : Host.Outcome State Fault Refusal → Option State
  | .next t => some t
  | .fault _ => none
  | .refused _ => none

/-- A field of the state after an instruction. -/
def see {α : Type} (f : State → α) (i : Instr) (s : State) : Option α := (after (exec i s)).map f

/-- A device of a profile right after reset, with `TEST_SEQ` and a FIFO of `spare + 1` bytes. -/
def fresh (p : Profile) (spare : Nat) : State := State.resetWith ⟨p, spare, testRom⟩

/-- A connected device with bytes in its FIFO and the transport's next count. -/
def connected (p : Profile) (fifo : List Byte) (count : Nat) : State :=
  { fresh p 63 with link := .connected, line := .uart, baud := .b115200, rxFifo := fifo, txAnswers := [count] }

/-- A device in a step of the handshake, with one millisecond of its delay left. -/
def handshaking (p : Profile) (st : HsStep) (ptr polls : Nat) (fifo : List Byte) : State :=
  { fresh p 63 with
    link := .handshaking, line := .uart, baud := initBaud p, hsStep := st, hsTimer := 1, romPtr := ptr, hsPolls := polls
    rxFifo := fifo }

/-- A device in the first or second pulse, with one millisecond left. -/
def pulsing (p : Profile) (st : HsStep) (ptr polls : Nat) : State :=
  { handshaking p st ptr polls [] with line := .gpioLow }

/-- A device about to perform one event. -/
def given (s : State) (e : Event) : State := { s with inputs := [e] }

/-- A text of given bytes padded with spaces. -/
def hi : Text := #v[0x48, 0x69, 0x20, 0x20, 0x20, 0x20, 0x20, 0x20, 0x20, 0x20, 0x20, 0x20, 0x20]

/-! ### WellFormed refuses each ill-formed term -/

theorem test_wf_writeData_without_data : wellFormed .generic (.writeData 0x00 0xB9 none) = false := by decide
theorem test_wf_writeData_refused_markers : wellFormed .generic (.writeData 0x01 0xB8 (some ⟨0x00, [0x41], 0xBE⟩)) = false := by
  decide
theorem test_wf_writeData_length : wellFormed .generic (.writeData 0x00 0xB9 (some ⟨0x08, [0x48], 0xD6⟩)) = false := by decide
theorem test_wf_combo_length : wellFormed .ev3Compatible (.combo [0x07] 0xB4) = false := by decide
theorem test_wf_unknown_recognised : ([0x00, 0x02, 0x43, 0x46, 0x4C].map (fun b => wellFormed .generic (.unknown b)))
    = [false, false, false, false, false] := by decide
theorem test_wf_ackwaitDiscard : wellFormed .generic (.ackwaitDiscard 0x04) = false := by decide
theorem test_wf_empty_rom_frame : ([Instr.type 0x40 [], .modes 0x49 [], .speed 0x52 [], .version 0x5F [], .infoName 0x90 [],
    .infoRaw 0x98 [], .infoPct 0x98 [], .infoSi 0x98 [], .infoSymbol 0x90 [], .infoMapping 0x88 [], .infoFormat 0x90 []].map
    (wellFormed .generic)) = List.replicate 11 false := by decide
theorem test_wf_dataGeneric_checksum : wellFormed .generic (.dataGeneric 0x05 0x3B) = false := by decide
theorem test_wf_dataGeneric_profile : wellFormed .ev3Compatible (.dataGeneric 0x05 0x3A) = false := by decide
theorem test_wf_dataEv3_checksum : wellFormed .ev3Compatible (.dataEv3 0 0x2C 0x01 0xE5) = false := by decide
theorem test_wf_dataEv3_profile : wellFormed .generic (.dataEv3 0 0x2C 0x01 0x1A) = false := by decide
theorem test_rom_declares_its_lengths : testRom.declaresItsLengths = true := by decide

/-! ### Decoding: words of the spec's encodings, bit by bit (opcode table; R103 to R108) -/

theorem test_decode_nop0 : decode .generic .steady [0b00000000] = .ok .nop0 [] := by decide
theorem test_decode_keepalive : decode .generic .steady [0b00000010] = .ok .keepalive [] := by decide
theorem test_decode_select : decode .generic .steady [0b01000011, 0b00001111, 0b10110011] = .ok (.select 15 0xB3) [] := by decide
theorem test_decode_writeData : decode .ev3Compatible .steady [0b01000110, 0b00000001, 0b10111000, 0b00001010, 0x48, 0x69, 0xD4]
    = .ok (.writeData 0x01 0xB8 (some ⟨0x0A, [0x48, 0x69], 0xD4⟩)) [] := by decide
theorem test_decode_writeData_refused : decode .generic .steady [0b01000110, 0b00000001, 0b10111000, 0x0A]
    = .ok (.writeData 0x01 0xB8 none) [0x0A] := by decide
theorem test_decode_combo_generic : decode .generic .steady [0b01001100, 0x07, 0xB4, 0x00] = .ok (.combo [0x07] 0xB4) [0x00] := by
  decide
theorem test_decode_combo_ev3 : decode .ev3Compatible .steady [0b01001100, 0x01, 0x02, 0xB0] = .ok (.combo [0x01, 0x02] 0xB0) [] := by
  decide
theorem test_decode_unknown : decode .generic .steady [0b00000100] = .ok (.unknown 0x04) [] := by decide
theorem test_decode_truncated : decode .generic .steady [0x46, 0x00, 0xB9, 0x08, 0x48] = .rejected (.truncated .wdPay) := by decide
theorem test_decode_ackEcho : decode .generic .ackWait [0b00000100] = .ok .ackEcho [] := by decide
theorem test_decode_ackwaitDiscard : decode .generic .ackWait [0b00000000] = .ok (.ackwaitDiscard 0x00) [] := by decide
theorem test_decode_sync : decode .generic (.rom .sync) [0b00000000] = .ok .sync [] := by decide
theorem test_decode_rom_frame : decode .generic (.rom .modes) [0x49, 0x00, 0x00, 0xB6] = .ok (.modes 0x49 [0x00, 0x00]) [] := by decide
theorem test_decode_rom_bad_frame : decode .generic (.rom .modes) [0x49, 0x00, 0x00, 0xB7] = .rejected .notAFrame := by decide
theorem test_decode_ack : decode .generic (.rom .ack) [0b00000100] = .ok .ack [] := by decide
theorem test_decode_dataGeneric : decode .generic .outbound [0b11000000, 0x05, 0x3A] = .ok (.dataGeneric 0x05 0x3A) [] := by decide
theorem test_decode_dataEv3 : decode .ev3Compatible .outbound
    [0b01000110, 0b00000000, 0b10111001, 0b11001111, 0x00, 0x80, 0xB0] = .ok (.dataEv3 7 0x00 0x80 0xB0) [] := by decide

/-! ### Table words: the row each decodes to, and the step that runs it -/

theorem test_table_select : decodeTableWord 24 0xBF0343 = some (.select 0x03 0xBF) := by decide
theorem test_table_ackEcho : decodeTableWord 8 0x04 = some .ackEcho := by decide
theorem test_table_dataEv3 : decodeTableWord 32 0x4600B9C9 = some (.dataEv3 1 0x00 0x00 0x00) := by decide
theorem test_fetch_select : (after (step (State.reset.withFetchWord 24 0xBF0343))).map (fun t => (t.mode, t.diag))
    = some (3, [.selected 3]) := by decide
theorem test_fetch_writeData : (after (step (State.reset.withFetchWord 56 0xD6694808B90046))).map
    (·.text) = some hi := by decide +kernel
theorem test_fetch_ackEcho : (after (step (State.reset.withFetchWord 8 0x04))).map (·.link) = some .connected := by decide
theorem test_fetch_dataGeneric : (after (step (State.reset.withFetchWord 16 0x05C0))).map (·.wire) = some [0xC0, 0x05, 0x3A] := by decide
theorem test_fetch_dataEv3 : (after (step (State.reset.withFetchWord 32 0x4600B9C9))).map (·.wire)
    = some [0x46, 0x00, 0xB9, 0xC9, 0x00, 0x00, 0x36] := by decide

/-! ### Codec (section 2) -/

theorem test_checksum : see (·.replies) (.checksum [0xC8, 0x2C, 0x01]) State.reset = some [.byte 0x1A] := by decide
theorem test_checksum_empty : see (·.replies) (.checksum []) State.reset = some [.byte 0xFF] := by decide
theorem test_buildFrame : see (·.replies) (.buildFrame 0x4C [0x01, 0x02]) State.reset
    = some [.bytes [0x4C, 0x01, 0x02, 0xB0]] := by decide
theorem test_verifyFrame_changed : see (·.replies) (.verifyFrame [0xC0, 0x04, 0x3A]) State.reset = some [.verdict false] := by decide
theorem test_verifyFrame_same_mask : see (·.replies) (.verifyFrame [0xC1, 0x04, 0x3A]) State.reset = some [.verdict true] := by decide

/-! ### Inbound messages (sections 3 and 4) -/

theorem test_select : see (fun t => (t.mode, t.diag)) (.select 0x0F 0xB3) (connected .generic [] 3) = some (15, [.selected 15]) := by
  decide
theorem test_select_checksum_before_range : see (fun t => (t.mode, t.diag)) (.select 0x10 0x00) (connected .generic [] 3)
    = some (0, [.droppedSelectChecksum 16]) := by decide
theorem test_writeData_bank1 : see (fun t => (t.text, t.mode, t.diag)) (.writeData 0x01 0xB8 (some ⟨0x0A, [0x48, 0x69], 0xD4⟩))
    (connected .ev3Compatible [] 7) = some (hi, 0, [.writeData 10 2]) := by decide
theorem test_writeData_literal_checksum : see (fun t => (t.text, t.diag)) (.writeData 0x00 0xB9 (some ⟨0x08, [0x48, 0x69], 0x29⟩))
    (connected .generic [] 3) = some (spaces13, [.droppedWriteChecksum 0x08]) := by decide
theorem test_writeData_sixteen_bytes : see (fun t => (t.text, t.diag)) (.writeData 0x00 0xB9 (some ⟨0x20,
    [0x41, 0x42, 0x43, 0x44, 0x45, 0x46, 0x47, 0x48, 0x49, 0x4A, 0x4B, 0x4C, 0x4D, 0x4E, 0x4F, 0x50], 0xCF⟩))
    (connected .generic [] 3)
    = some (#v[0x41, 0x42, 0x43, 0x44, 0x45, 0x46, 0x47, 0x48, 0x49, 0x4A, 0x4B, 0x4C, 0x4D], [.writeData 0 16]) := by decide
theorem test_combo : see (·.diag) (.combo [0x01, 0x02] 0xB0) (connected .ev3Compatible [] 7)
    = some [.comboAccepted [0x01, 0x02]] := by decide
theorem test_combo_checksum : see (·.diag) (.combo [0x07] 0xB5) (connected .generic [] 3) = some [.droppedComboChecksum] := by decide
theorem test_unknown : see (·.diag) (.unknown 0x99) (connected .generic [] 3) = some [.unknown 0x99] := by decide
theorem test_nop0 : see (·.diag) .nop0 (connected .generic [] 3) = some [] := by decide
theorem test_keepalive : see (·.diag) .keepalive (connected .generic [] 3) = some [] := by decide

/-! ### Ticks (sections 3 to 5, programs P3 and P6) -/

theorem test_tick_false_select : see (fun t => (t.mode, t.diag, t.wire)) .tick
    (connected .generic [0x46, 0x01, 0xB8, 0x43, 0x07, 0xBB] 3)
    = some (7, [.droppedMarkerMismatch 0x01 0xB8, .selected 7], [0xC0, 0x00, 0x3F]) := by decide
theorem test_tick_all_errors : see (·.diag) .tick (connected .ev3Compatible
    [0x43, 0x02, 0x00, 0x46, 0x01, 0xB8, 0x0A, 0x48, 0x69, 0xD5, 0x99, 0x4C, 0x01, 0x02, 0xB0, 0x43, 0x10, 0xAC, 0x46, 0x02,
     0xBB, 0x00, 0x43, 0x05] 7)
    = some [.droppedSelectChecksum 2, .droppedWriteChecksum 0x0A, .unknown 0x99, .comboAccepted [0x01, 0x02],
      .droppedSelectRange 16, .droppedMarkerMismatch 0x02 0xBB, .truncated .selCk] := by decide
theorem test_dataGeneric_short : see (fun t => (t.link, t.wire, t.diag)) (.dataGeneric 0x05 0x3A) (connected .generic [] 2)
    = some (.disconnected, [0xC0, 0x05], [.linkLost 2]) := by decide
theorem test_dataGeneric : see (fun t => (t.link, t.wire)) (.dataGeneric 0x05 0x3A) (connected .generic [] 3)
    = some (.connected, [0xC0, 0x05, 0x3A]) := by decide
theorem test_dataEv3 : see (·.wire) (.dataEv3 0 0x2C 0x01 0x1A) (connected .ev3Compatible [] 7)
    = some [0x46, 0x00, 0xB9, 0xC8, 0x2C, 0x01, 0x1A] := by decide
theorem test_tick_mode15 : see (·.wire) .tick { connected .ev3Compatible [0x43, 0x0F, 0xB3] 7 with value := 5 }
    = some [0x46, 0x00, 0xB9, 0xCF, 0x05, 0x00, 0x35] := by decide

/-! ### Host operations (sections 5 to 7) -/

theorem test_setValue_wraps : see (·.value) (.setValue 40000) State.reset = some 0x9C40 := by decide
theorem test_setValue_negative : see (·.value) (.setValue (-32769)) State.reset = some 0x7FFF := by decide
theorem test_connect : see (fun t => (t.link, t.line, t.hsTimer, t.value)) .connect { fresh .ev3Compatible 63 with value := 9 }
    = some (.handshaking, .gpioLow, 410, 9) := by decide
theorem test_connect_resets_session : see (fun t => (t.mode, t.text)) .connect { fresh .generic 63 with mode := 3, text := hi }
    = some (0, spaces13) := by decide
theorem test_getMode : see (·.replies) .getMode { State.reset with mode := 9 } = some [.mode 9] := by decide
theorem test_isConnected : see (·.replies) .isConnected (handshaking .generic .gap 1 0 []) = some [.connected false] := by decide
theorem test_getText : see (·.replies) .getText State.reset = some [.text spaces13] := by decide
theorem test_rx_full : see (·.rxFifo) (.rx 0xBF) { connected .generic [0x00, 0x00, 0x43, 0x03] 3 with cfg := ⟨.generic, 3, testRom⟩ }
    = some [0x00, 0x00, 0x43, 0x03] := by decide
theorem test_rx_room : see (·.rxFifo) (.rx 0xBF) { connected .generic [0x00, 0x00, 0x43, 0x03] 3 with cfg := ⟨.generic, 4, testRom⟩ }
    = some [0x00, 0x00, 0x43, 0x03, 0xBF] := by decide
theorem test_reset : see (fun t => (t.link, t.hsStep, t.line)) .reset (handshaking .generic .ackWait 13 7 [0x04])
    = some (.disconnected, .idle, .released) := by decide

/-! ### Handshake (programs P1 and P4; TEST_SEQ of section 8) -/

theorem test_rom_bytes : (romEntries testRom).map (fun e => e.1.length) = [1, 3, 4, 6, 10, 6, 10, 10, 10, 6, 4, 6, 1] := by decide
theorem test_rom_checksums : (romEntries testRom).map (fun e => e.1.getLast?) = [some 0x00, some 0x9C, some 0xB6, some 0x6E, some 0xA0,
    some 0x79, some 0xD8, some 0xED, some 0xD8, some 0x69, some 0x67, some 0x6D, some 0x04] := by decide
theorem test_first_pulse_ends : see (fun t => (t.line, t.baud, t.wire, t.romPtr, t.hsTimer)) .ms
    { pulsing .generic .pulse1 0 0 with txAnswers := [1] } = some (.uart, .b2400, [0x00], 1, 2) := by decide
theorem test_write_failure : see (fun t => (t.link, t.connectOk, t.romPtr, t.wire, t.diag)) .ms
    { handshaking .ev3Compatible .gap 3 0 [] with txAnswers := [2] }
    = some (.disconnected, false, 3, [0x52, 0x00], [.handshakeWriteFail 3 2, .connectDone false]) := by decide
theorem test_ackwaitDiscard : see (fun t => (t.hsTimer, t.diag)) (.ackwaitDiscard 0x00) (handshaking .ev3Compatible .ackWait 13 1 [])
    = some (5, [.ackWaitDiscard 0x00]) := by decide
theorem test_ackEcho_ev3 : see (fun t => (t.link, t.connectOk, t.diag)) .ackEcho (handshaking .ev3Compatible .ackWait 13 3 [])
    = some (.connected, true, [.connectDone true]) := by decide
theorem test_ackEcho_generic : see (fun t => (t.line, t.hsTimer)) .ackEcho (handshaking .generic .ackWait 13 1 [])
    = some (.gpioLow, 10) := by decide
theorem test_timeout : see (fun t => (t.link, t.hsPolls, t.diag)) .ms (handshaking .ev3Compatible .ackWait 13 399 [])
    = some (.disconnected, 400, [.handshakeTimeout, .connectDone false]) := by decide
theorem test_poll_reads_one_byte : see (fun t => (t.rxFifo, t.hsPolls)) .ms (handshaking .ev3Compatible .ackWait 13 0 [0x00, 0x00, 0x04])
    = some ([0x00, 0x04], 1) := by decide
theorem test_second_pulse_ends : see (fun t => (t.link, t.baud, t.rxFifo)) .ms
    { pulsing .generic .pulse2 13 1 with rxFifo := [0x43] } = some (.connected, .b115200, []) := by decide

/-- Every row of `TEST_SEQ`, executed in the send step at its place, puts its own bytes on the wire. -/
theorem test_rom_rows : ∀ k : Fin 13, ((romProgram testRom)[k.val]?).bind (fun l =>
    see (fun t => (t.wire, t.romPtr)) l.instr { handshaking .generic .send k.val 0 [] with txAnswers := [10] })
    = ((romEntries testRom)[k.val]?).map (fun e => (e.1, k.val + 1)) := by decide

/-! ### Witnesses: a state and operands that meet the hypotheses of each statement, clause by clause -/

/-- Two profiles. -/
def profiles : List Profile := [.generic, .ev3Compatible]

theorem test_witness_ErrorDetectionOfTheChecksum : Machine.verifyFrame [0xC0, 0x05, 0x3A] = true ∧ (0 : Nat) < [0xC0, 0x05, 0x3A].length
    ∧ (2 : Nat) < [0xC0, 0x05, 0x3A].length ∧ (0 : Nat) ≠ 2 ∧ (0xC1 : Byte) ≠ 0xC0 := by decide
theorem test_witness_DecodeOfEncode_steady : contextOf (.writeData 0x01 0xB8 (some ⟨0x00, [0x41], 0xBE⟩)) = some .steady
    ∧ wellFormed .ev3Compatible (.writeData 0x01 0xB8 (some ⟨0x00, [0x41], 0xBE⟩)) = true := by decide
theorem test_witness_DecodeOfEncode_ackWait : contextOf (.ackwaitDiscard 0xFF) = some .ackWait
    ∧ wellFormed .generic (.ackwaitDiscard 0xFF) = true := by decide
theorem test_witness_DecodeOfEncode_rom : contextOf (.infoFormat 0x90 [0x01]) = some (.rom .infoFormat)
    ∧ wellFormed .generic (.infoFormat 0x90 [0x01]) = true := by decide
theorem test_witness_DecodeOfEncode_outbound : contextOf (.dataEv3 7 0xFF 0xFF 0x30) = some .outbound
    ∧ wellFormed .ev3Compatible (.dataEv3 7 0xFF 0xFF 0x30) = true := by decide
theorem test_witness_DecodingDropsNoByte : decode .generic (.rom .ack) [0x04] = .ok .ack [] ∧ Context.rom .ack ≠ .outbound := by decide
theorem test_witness_EveryLeadingByte : ([0x01, 0x03, 0x42, 0x45, 0x4B, 0xFF] : List Byte).all (fun b => !recognisedLeading b) = true := by
  decide
theorem test_witness_RomEntriesHaveTheirShape : (romEntries testRom)[1]? = some ([0x40, 0x23, 0x9C], 2)
    ∧ 1 + 1 < (romEntries testRom).length ∧ (romEntries testRom)[11]? = some ([0x90, 0x01, 0x00, 0x03, 0x00, 0x6D], 2)
    ∧ 11 + 1 < (romEntries testRom).length := by decide
theorem test_witness_IllFormedRom_accepted : romOfEntries? (romEntries testRom) = some testRom := by decide
theorem test_witness_IllFormedRom_refused : romOfEntries? [([0x00], 2)] = none
    ∧ romOfEntries? ((romEntries testRom).map (fun e => (e.1, 2))) = none
    ∧ romOfEntries? ((romEntries testRom).map (fun e => (e.1, if e.2 = 0 then 0 else 19))) = none := by decide

/-- A ROM of `n` modes. -/
def romOfModes (n : Nat) : Rom := { testRom with groups := List.replicate n testGroup }
/-- A Generic mode table of the four array modes, in an order of its own, and two more. -/
def genericTable : ModeTable :=
  .generic ([.floatArray, .int8Array, .int32Array, .int16Array].map (fun m => (m, testGroup))) [testGroup, testGroup]
theorem test_generic_rom_without_array_modes : hsSeqOfEntries? .generic (romEntries (romOfModes 3)) = none := by decide
theorem test_generic_rom_with_array_modes : hsSeqOfEntries? .generic (romEntries (romOfModes 4)) = some (romOfModes 4) := by decide
theorem test_reset_rom_meets_its_profile : romMeetsProfile State.reset.profile State.reset.cfg.rom = true := by decide
theorem test_table_lacks_an_array_mode : tableComplete (.generic [(.int8Array, testGroup), (.int8Array, testGroup),
    (.int16Array, testGroup), (.floatArray, testGroup)] []) = false := by decide
theorem test_witness_ModeGroupsStandInTheirOrder_generic : (romOfModes 6).groups = tableGroups genericTable
    ∧ tableComplete genericTable = true := by decide
theorem test_witness_ModeGroupsStandInTheirOrder_ev3 : testRom.groups = tableGroups (.ev3Compatible [testGroup])
    ∧ tableComplete (.ev3Compatible [testGroup]) = true := by decide

theorem test_witness_steady : (profiles.map (fun p => connected p [] 7)).all (fun s => s.link == .connected && s.ph == .idle) = true := by
  decide
theorem test_witness_SelectSetsTheMode_range : (0x0F : Byte).toNat ≤ 15 ∧ ¬ (0x10 : Byte).toNat ≤ 15
    ∧ (0xB3 : Byte) = 0xFF ^^^ 0x43 ^^^ 0x0F ∧ (0xAC : Byte) = 0xFF ^^^ 0x43 ^^^ 0x10 ∧ (0xBE : Byte) ≠ 0xFF ^^^ 0x43 ^^^ 0x03 := by decide
theorem test_witness_WriteData_shortest : wellFormed .generic (.writeData 0x00 0xB9 (some ⟨0x00, [0x41], 0xBE⟩)) = true
    ∧ (0xBE : Byte) = Machine.checksum [0x00, 0x41] ∧ (0xBF : Byte) ≠ Machine.checksum [0x00, 0x41] := by decide
theorem test_witness_WriteData_longest : wellFormed .ev3Compatible
    (.writeData 0x01 0xB8 (some ⟨0x3F, List.replicate 128 0x00, 0xC0⟩)) = true := by decide +kernel
theorem test_witness_RefusedMarkers : (¬ ((0x01 : Byte) = 0x00 ∧ (0xB8 : Byte) = 0xB9)
      ∧ ¬ ((connected .generic [] 3).profile = .ev3Compatible ∧ (0x01 : Byte) = 0x01 ∧ (0xB8 : Byte) = 0xB8))
    ∧ ¬ ((0x01 : Byte) = 0x00 ∧ (0xB9 : Byte) = 0xB9)
    ∧ ¬ ((connected .ev3Compatible [] 7).profile = .ev3Compatible ∧ (0x01 : Byte) = 0x01 ∧ (0xB9 : Byte) = 0xB8) := by decide
theorem test_witness_Combo_lengths : comboLen (connected .generic [] 3).profile = 1
    ∧ comboLen (connected .ev3Compatible [] 7).profile = 2 := by decide
theorem test_witness_NoMessageOutsideConnected : (fresh .generic 63).link ≠ .connected
    ∧ (handshaking .generic .gap 1 0 []).link ≠ .connected := by decide
theorem test_witness_DrainRuns_message : decodeSteady (connected .generic [] 3).profile [0x43, 0x03, 0xBF, 0x02]
    = .ok (.select 0x03 0xBF) [0x02] := by decide
theorem test_witness_DrainRuns_truncated : decodeSteady (connected .generic [] 3).profile [0x43, 0x03] = .rejected (.truncated .selCk) := by
  decide

theorem test_witness_Connect : (fresh .generic 63).link = .disconnected ∧ (connected .generic [] 3).link ≠ .disconnected := by decide
theorem test_witness_Millisecond : (fresh .generic 63).hsStep = .idle
    ∧ ({ pulsing .generic .pulse1 0 0 with hsTimer := 2 }).hsStep ≠ .idle
    ∧ 1 < ({ pulsing .generic .pulse1 0 0 with hsTimer := 2 }).hsTimer := by decide
theorem test_witness_FirstPulse : (pulsing .ev3Compatible .pulse1 0 0).hsStep = .pulse1
    ∧ (pulsing .ev3Compatible .pulse1 0 0).hsTimer = 1 ∧ (pulsing .ev3Compatible .pulse1 0 0).romPtr = 0 := by decide
theorem test_witness_GapEnd : (handshaking .generic .gap 12 0 []).hsStep = .gap ∧ (handshaking .generic .gap 12 0 []).hsTimer = 1
    ∧ (handshaking .generic .gap 12 0 []).romLine? = some ⟨.ack, .ack, 0⟩ := by decide
/-- Every slot of `TEST_SEQ` holds a row of its own at the ROM pointer of a send step. -/
theorem test_witness_RomRow_slots : (List.range 13).map (fun k => ((handshaking .generic .send k 0 []).romLine?).map (·.slot))
    = [some .sync, some .type, some .modes, some .speed, some .version, some .infoName, some .infoRaw, some .infoPct, some .infoSi,
      some .infoSymbol, some .infoMapping, some .infoFormat, some .ack] := by decide
theorem test_witness_RomRow_whole : ({ handshaking .generic .send 11 0 [] with txAnswers := [6] }).txCount 6 = 6
    ∧ 11 + 1 < (handshaking .generic .send 11 0 []).romK := by decide
theorem test_witness_RomRow_last : ({ handshaking .generic .send 12 0 [] with txAnswers := [1] }).txCount 1 = 1
    ∧ 12 + 1 = (handshaking .generic .send 12 0 []).romK
    ∧ (handshaking .generic .send 12 0 []).romLine? = some ⟨.ack, romInstr .ack 0 [], 0⟩ := by decide
theorem test_witness_RomRow_short : ({ handshaking .generic .send 0 0 [] with txAnswers := [0] }).txCount 1 < 1
    ∧ (handshaking .generic .send 0 0 []).romLine? = some ⟨.sync, romInstr .sync 0 [], 2⟩ := by decide
theorem test_witness_RomRowsNeedTheSendStep : (handshaking .generic .gap 1 0 []).hsStep ≠ .send
    ∧ ∃ l, (handshaking .generic .send 0 0 []).romLine? = some l ∧ l.instr ≠ romInstr .type 0x40 [0x23] := by
  exact ⟨by decide, ⟨.sync, .sync, 2⟩, by decide, by decide⟩
theorem test_witness_Poll_empty : (handshaking .generic .ackWait 13 398 []).hsPolls + 1 ≠ 400
    ∧ (handshaking .generic .ackWait 13 399 []).hsPolls + 1 = 400 ∧ (handshaking .generic .ackWait 13 399 []).rxFifo = []
    ∧ (handshaking .generic .ackWait 13 399 []).hsStep = .ackWait ∧ (handshaking .generic .ackWait 13 399 []).hsTimer = 1 := by decide
theorem test_witness_Poll_byte : (handshaking .generic .ackWait 13 0 [0x00, 0x04]).rxFifo = 0x00 :: [0x04]
    ∧ (handshaking .generic .ackWait 13 0 [0x04]).rxFifo = 0x04 :: [] := by decide
theorem test_witness_AckEcho : (handshaking .generic .ackWait 13 1 []).profile = .generic
    ∧ (handshaking .ev3Compatible .ackWait 13 1 []).profile = .ev3Compatible
    ∧ (handshaking .ev3Compatible .ackWait 13 1 []).hsStep = .ackWait := by decide
theorem test_witness_OtherBytes : (handshaking .generic .ackWait 13 399 []).hsPolls ≠ 400
    ∧ (handshaking .generic .ackWait 13 400 []).hsPolls = 400 ∧ (0x05 : Byte) ≠ 0x04 := by decide
theorem test_witness_SecondPulse : (pulsing .generic .pulse2 13 1).hsStep = .pulse2 ∧ (pulsing .generic .pulse2 13 1).hsTimer = 1 := by
  decide
/-- A device in its first pulse whose transport will take the whole of `TEST_SEQ`, with as many milliseconds to come as that
takes. -/
def wholeRom : State :=
  { pulsing .generic .pulse1 0 0 with
    txAnswers := [1, 3, 4, 6, 10, 6, 10, 10, 10, 6, 4, 6, 1] ++ [7], inputs := List.replicate 25 .ms }
theorem test_witness_HandshakeTransmitsTheWholeRom : wholeRom.inv = true ∧ wholeRom.hsStep = .pulse1
    ∧ wholeRom.txAnswers = (romEntries wholeRom.cfg.rom).map (fun e => e.1.length) ++ [7]
    ∧ wholeRom.inputs = List.replicate (wholeRom.hsTimer + ((romEntries wholeRom.cfg.rom).map (fun e => e.2)).sum) .ms := by decide
theorem test_witness_EveryHandshakeEnds : [pulsing .generic .pulse1 0 0, handshaking .ev3Compatible .gap 12 0 [],
    handshaking .generic .ackWait 13 399 [], pulsing .generic .pulse2 13 1].all (fun s => s.inv && s.link == .handshaking) = true := by
  decide

theorem test_witness_GenericRow : (connected .generic [] 3).link = .connected ∧ (connected .generic [] 3).profile = .generic
    ∧ (connected .generic [] 3).txCount 3 = 3 ∧ (connected .generic [] 2).txCount 3 < 3 := by decide
theorem test_witness_Ev3Row : (connected .ev3Compatible [] 7).link = .connected
    ∧ (connected .ev3Compatible [] 7).profile = .ev3Compatible
    ∧ (connected .ev3Compatible [] 7).txCount 7 = 7 ∧ (connected .ev3Compatible [] 6).txCount 7 < 7 := by decide
theorem test_witness_GenericTick : (0xFF : Byte).toNat = ({ connected .generic [] 3 with value := 0xFFFF }).value.toNat % 256 := by decide
theorem test_witness_Ev3Tick : (0xCF : Byte).toNat = 0xC8 ||| (drain (connected .ev3Compatible [0x43, 0x0F, 0xB3] 7)).mode.toNat
    ∧ (0x00 : Byte).toNat = ({ connected .ev3Compatible [] 7 with value := 0x8000 }).value.toNat % 256
    ∧ (0x80 : Byte).toNat = ({ connected .ev3Compatible [] 7 with value := 0x8000 }).value.toNat / 256 := by decide
theorem test_witness_RowsOutsideTheirContext : (connected .generic [] 3).hsStep ≠ .ackWait ∧ (fresh .generic 63).link ≠ .connected
    ∧ (connected .ev3Compatible [] 7).profile ≠ .generic ∧ (connected .generic [] 3).profile ≠ .ev3Compatible := by decide
theorem test_witness_UpperModes : 8 ≤ (8 : ModeNum).toNat ∧ 8 ≤ (15 : ModeNum).toNat := by decide

theorem test_witness_ArrivingByte : ({ connected .generic [] 3 with cfg := ⟨.generic, 0, testRom⟩ }).rxFifo.length < 1
    ∧ ({ connected .generic [0x00] 3 with cfg := ⟨.generic, 0, testRom⟩ }).rxFifo.length
      = ({ connected .generic [0x00] 3 with cfg := ⟨.generic, 0, testRom⟩ }).cfg.rxDepth
    ∧ (fresh .generic 0).line ≠ .uart := by decide
theorem test_witness_StepPerformsTheNextEvent : (given (fresh .generic 63) .connect).inputs = .connect :: []
    ∧ (fresh .generic 63).inputs = [] := by decide
/-- A step of every event from states that meet the invariant. -/
theorem test_witness_Steps : [given (fresh .generic 63) .connect, given (connected .generic [0x43] 0) .tick,
    given (pulsing .ev3Compatible .pulse1 0 0) .ms, given (connected .generic [] 3) (.rx 0x04), given (fresh .generic 63) (.setValue 5),
    given (connected .generic [] 3) .getMode, given (connected .generic [] 3) .isConnected, given (connected .generic [] 3) .getText,
    given (connected .generic [] 3) .reset].all (fun s => s.inv && (after (step s)).isSome) = true := by decide

end Sys2Proof.Tests
end

section
/-! What a step answers, by the list of events to come (R12, R80, R330). -/

namespace Sys2Proof.Machine

theorem step_of_inputs_cons {s : State} {e : Event} {rest : List Event} (h : s.inputs = e :: rest) :
    step s = exec e.instr { s with inputs := rest } := by
  simp only [step, State.nextEvent, h]

theorem step_of_inputs_nil {s : State} (h : s.inputs = []) : step s = .next s := by
  simp only [step, State.nextEvent, h]

/-- Settles O48: the two forms of the list of events to come are the two branches of a step. -/
theorem stepPerformsTheNextEvent : Obligations.StepPerformsTheNextEvent :=
  fun _ _ _ => ⟨step_of_inputs_cons, step_of_inputs_nil⟩

end Sys2Proof.Machine
end

section
/-! What each event of the environment leaves unchanged: a step as a function of the event, and one frame equation per event that
writes several fields (R12, R80). -/

namespace Sys2Proof.Machine

/-- The state an event leaves when it is performed to completion. -/
def State.perform (s : State) : Event → State
  | .connect => if s.link = .disconnected then startHandshake s else s
  | .tick => if s.link = .connected then send (drain s) else s
  | .setValue v => { s with value := valueOf v }
  | .getMode => s.answer (.mode s.mode)
  | .isConnected => s.answer (.connected (isConnectedFlag s.link))
  | .getText => s.answer (.text s.text)
  | .ms => millisecond s
  | .rx b => s.receive b
  | .reset => s.hardReset

theorem exec_event (e : Event) (s : State) : exec e.instr s = .next (s.perform e) := by
  cases e <;> rfl

/-- With an event to come a step answers the state that event leaves. -/
theorem eq_perform_of_step {s t : State} {e : Event} {rest : List Event} (hi : s.inputs = e :: rest)
    (h : step s = .next t) : t = State.perform { s with inputs := rest } e := by
  rw [step_of_inputs_cons hi, exec_event] at h
  injection h with h
  exact h.symm

/-- A step is idle or performs one event. -/
theorem step_perform_cases {s t : State} (h : step s = .next t) :
    t = s ∨ ∃ e rest, s.inputs = e :: rest ∧ t = State.perform { s with inputs := rest } e := by
  rcases step_cases s t h with ⟨-, ht⟩ | ⟨e, rest, hi, -⟩
  · exact .inl ht
  · exact .inr ⟨e, rest, hi, eq_perform_of_step hi h⟩

/-! ### The drain and the send of a tick -/

/-- The fields a drain may change: the FIFO, mode, text, the parser's scratch, the diagnostic output (R211). -/
theorem drain_frame (s : State) :
    { drain s with
      rxFifo := s.rxFifo, mode := s.mode, text := s.text, diag := s.diag, ph := s.ph, acc := s.acc, cnt := s.cnt, idx := s.idx
      bank := s.bank, m0 := s.m0, sm := s.sm, selM := s.selM, cb := s.cb, stage := s.stage } = s := by
  rw [drain_eq]
  unfold endOfDrain
  split <;>
    exact congrArg (fun u : State => { u with ph := s.ph, rxFifo := s.rxFifo }) (parseBytes_frame { s with ph := .idle } s.rxFifo)

theorem drain_cfg (s : State) : (drain s).cfg = s.cfg := congrArg (·.cfg) (drain_frame s)
theorem drain_link (s : State) : (drain s).link = s.link := congrArg (·.link) (drain_frame s)
theorem drain_line (s : State) : (drain s).line = s.line := congrArg (·.line) (drain_frame s)
theorem drain_baud (s : State) : (drain s).baud = s.baud := congrArg (·.baud) (drain_frame s)
theorem drain_romPtr (s : State) : (drain s).romPtr = s.romPtr := congrArg (·.romPtr) (drain_frame s)
theorem drain_hsPolls (s : State) : (drain s).hsPolls = s.hsPolls := congrArg (·.hsPolls) (drain_frame s)

/-- A drain empties the FIFO (R211). -/
theorem drain_rxFifo (s : State) : (drain s).rxFifo = [] := by rw [drain_eq]

/-- A drain ends with no message in progress (R212). -/
theorem drain_ph (s : State) : (drain s).ph = .idle := by
  unfold drain endOfDrain
  split
  · assumption
  · rfl

/-- In `Connected` the send is one write of the device's unit (R250). -/
theorem send_of_connected (s : State) (h : s.link = .connected) :
    send s = sendUnit s (outboundUnit s.profile s.value s.mode) := by
  cases hp : s.profile <;> simp [send, sendGeneric, sendEv3, State.encoderReady, outboundUnit, h, hp]

/-- A tick outside `Connected` is ignored; in it the drain is followed by one write, and a short count loses the link (R257, R258,
R280). -/
theorem perform_tick_cases (s : State) :
    (s.link ≠ .connected ∧ s.perform .tick = s)
      ∨ s.link = .connected ∧ ∃ unit n, s.perform .tick = (drain s).wrote unit n
        ∨ s.perform .tick = ((drain s).wrote unit n).loseLink n := by
  by_cases hc : s.link = .connected
  · refine .inr ⟨hc, ?_⟩
    rw [show s.perform .tick = send (drain s) from if_pos hc, send_of_connected _ ((drain_link s).trans hc), sendUnit_eq]
    split
    · exact ⟨_, _, .inr rfl⟩
    · exact ⟨_, _, .inl rfl⟩
  · exact .inl ⟨hc, if_neg hc⟩

/-! ### The handshake sequencer -/

/-- `t` is `s` but for the fields a millisecond of a handshake may write (R171 to R192). -/
def SameOutsideHandshake (s t : State) : Prop :=
  { t with
    link := s.link, connectOk := s.connectOk, line := s.line, baud := s.baud, rxFifo := s.rxFifo, hsStep := s.hsStep
    romPtr := s.romPtr, hsTimer := s.hsTimer, hsPolls := s.hsPolls, txAnswers := s.txAnswers, draws := s.draws
    txLog := s.txLog, diag := s.diag } = s

/-- One such change after another, the later one named first. -/
theorem SameOutsideHandshake.after {s t u : State} (h : SameOutsideHandshake t u) (h' : SameOutsideHandshake s t) :
    SameOutsideHandshake s u :=
  (congrArg (SameOutsideHandshake s) h).mpr h'

theorem sendEntry_frame (s : State) (bytes : List Byte) (gap : Nat) : SameOutsideHandshake s (sendEntry s bytes gap) := by
  obtain ⟨n, -, -, ⟨-, h⟩ | ⟨-, -, h⟩ | ⟨-, -, h⟩⟩ := sendEntry_cases s bytes gap <;> rw [h] <;> rfl

theorem sendStep_frame (s : State) : SameOutsideHandshake s (sendStep s) := by
  cases hl : s.romLine? with
  | none => rw [sendStep, hl]; rfl
  | some l =>
    rw [sendStep_eq s l hl]
    exact (sendEntry_frame _ _ _).after rfl

theorem pollMissed_frame (s : State) : SameOutsideHandshake s (pollMissed s) := by
  unfold pollMissed
  split <;> rfl

theorem acknowledged_frame (s : State) : SameOutsideHandshake s (acknowledged s) := by
  unfold acknowledged
  split <;> rfl

/-- A poll is counted, then misses, acknowledges or discards (R186). -/
theorem poll_eq (s : State) :
    poll s = match s.rxFifo with
      | [] => pollMissed { s with hsTimer := 0, hsPolls := s.hsPolls + 1 }
      | b :: rest =>
        if b = ackByte then acknowledged { s with hsTimer := 0, hsPolls := s.hsPolls + 1, rxFifo := rest }
        else pollMissed (State.emit { s with hsTimer := 0, hsPolls := s.hsPolls + 1, rxFifo := rest } (.ackWaitDiscard b)) := by
  unfold poll State.rxPop
  cases s.rxFifo <;> rfl

theorem poll_frame (s : State) : SameOutsideHandshake s (poll s) := by
  rw [poll_eq]
  split
  · exact (pollMissed_frame _).after rfl
  · split
    · exact (acknowledged_frame _).after rfl
    · exact (pollMissed_frame _).after rfl

theorem exitStep_frame (s : State) : SameOutsideHandshake s (exitStep s) := by
  unfold exitStep
  split
  · rfl
  · exact (sendStep_frame _).after rfl
  · rfl
  · exact sendStep_frame s
  · exact poll_frame s
  · rfl

theorem millisecond_frame (s : State) : SameOutsideHandshake s (millisecond s) := by
  obtain ⟨-, h⟩ | ⟨-, -, h⟩ | ⟨-, -, h⟩ := millisecond_cases s <;> rw [h]
  · rfl
  · rfl
  · exact (exitStep_frame _).after rfl

/-! ### Frame equations of the other events that have conditions -/

/-- `connect` starts a handshake in `Disconnected` and is ignored elsewhere (R276). -/
theorem perform_connect_cases (s : State) :
    (s.link ≠ .disconnected ∧ s.perform .connect = s) ∨ (s.link = .disconnected ∧ s.perform .connect = startHandshake s) := by
  by_cases hd : s.link = .disconnected
  · exact .inr ⟨hd, if_pos hd⟩
  · exact .inl ⟨hd, if_neg hd⟩

/-- A received byte is lost, or queued where there is room (R62). -/
theorem perform_rx_cases (s : State) (b : Byte) :
    s.perform (.rx b) = s
      ∨ (s.rxFifo.length < s.cfg.rxDepth ∧ s.perform (.rx b) = { s with rxFifo := s.rxFifo ++ [b] }) := by
  by_cases hr : s.line = .uart ∧ s.rxFifo.length < s.cfg.rxDepth
  · exact .inr ⟨hr.2, if_pos hr⟩
  · exact .inl (if_neg hr)

/-- The fields `connect` may change (R173, R174, R276). -/
theorem connect_frame (s : State) :
    { s.perform .connect with
      link := s.link, mode := s.mode, text := s.text, line := s.line, hsStep := s.hsStep, romPtr := s.romPtr
      hsTimer := s.hsTimer, hsPolls := s.hsPolls, ph := s.ph } = s := by
  obtain ⟨-, h⟩ | ⟨-, h⟩ := perform_connect_cases s
  · rw [h]
  · rw [h]
    rfl

/-- The fields a tick may change: those of a drain, those of a write and the link (R280). -/
theorem tick_frame (s : State) :
    { s.perform .tick with
      rxFifo := s.rxFifo, mode := s.mode, text := s.text, diag := s.diag, ph := s.ph, acc := s.acc, cnt := s.cnt, idx := s.idx
      bank := s.bank, m0 := s.m0, sm := s.sm, selM := s.selM, cb := s.cb, stage := s.stage
      link := s.link, txAnswers := s.txAnswers, draws := s.draws, txLog := s.txLog } = s := by
  have hd := congrArg
    (fun u : State => { u with link := s.link, txAnswers := s.txAnswers, draws := s.draws, txLog := s.txLog }) (drain_frame s)
  obtain ⟨-, h⟩ | ⟨-, unit, n, h | h⟩ := perform_tick_cases s
  · rw [h]
  · rw [h]
    exact hd
  · rw [h]
    exact hd

/-- A received byte may change the FIFO only (R62). -/
theorem rx_frame (s : State) (b : Byte) : { s.perform (.rx b) with rxFifo := s.rxFifo } = s := by
  obtain h | ⟨-, h⟩ := perform_rx_cases s b
  · rw [h]
  · rw [h]

/-! ### Who writes a field -/

theorem perform_cfg (s : State) (e : Event) : (s.perform e).cfg = s.cfg := by
  cases e with
  | connect => exact congrArg (·.cfg) (connect_frame s)
  | tick => exact congrArg (·.cfg) (tick_frame s)
  | ms => exact congrArg (·.cfg) (millisecond_frame s)
  | rx b => exact congrArg (·.cfg) (rx_frame s b)
  | setValue _ | getMode | isConnected | getText | reset => rfl

theorem perform_value (s : State) (e : Event) (hr : e ≠ .reset) (hv : ∀ v, e ≠ .setValue v) :
    (s.perform e).value = s.value := by
  cases e with
  | connect => exact congrArg (·.value) (connect_frame s)
  | tick => exact congrArg (·.value) (tick_frame s)
  | ms => exact congrArg (·.value) (millisecond_frame s)
  | rx b => exact congrArg (·.value) (rx_frame s b)
  | setValue v => exact absurd rfl (hv v)
  | reset => exact absurd rfl hr
  | getMode | isConnected | getText => rfl

theorem perform_mode_text (s : State) (e : Event) (hr : e ≠ .reset) (ht : e ≠ .tick) (hc : e ≠ .connect) :
    (s.perform e).mode = s.mode ∧ (s.perform e).text = s.text := by
  cases e with
  | connect => exact absurd rfl hc
  | tick => exact absurd rfl ht
  | ms => exact ⟨congrArg (·.mode) (millisecond_frame s), congrArg (·.text) (millisecond_frame s)⟩
  | rx b => exact ⟨congrArg (·.mode) (rx_frame s b), congrArg (·.text) (rx_frame s b)⟩
  | reset => exact absurd rfl hr
  | setValue _ | getMode | isConnected | getText => exact ⟨rfl, rfl⟩

theorem perform_connectOk (s : State) (e : Event) (hr : e ≠ .reset) (hm : e ≠ .ms) :
    (s.perform e).connectOk = s.connectOk := by
  cases e with
  | connect => exact congrArg (·.connectOk) (connect_frame s)
  | tick => exact congrArg (·.connectOk) (tick_frame s)
  | ms => exact absurd rfl hm
  | rx b => exact congrArg (·.connectOk) (rx_frame s b)
  | reset => exact absurd rfl hr
  | setValue _ | getMode | isConnected | getText => rfl

theorem perform_line_baud (s : State) (e : Event) (hc : e ≠ .connect) (hm : e ≠ .ms) (hr : e ≠ .reset) :
    (s.perform e).line = s.line ∧ (s.perform e).baud = s.baud := by
  cases e with
  | connect => exact absurd rfl hc
  | tick => exact ⟨congrArg (·.line) (tick_frame s), congrArg (·.baud) (tick_frame s)⟩
  | ms => exact absurd rfl hm
  | rx b => exact ⟨congrArg (·.line) (rx_frame s b), congrArg (·.baud) (rx_frame s b)⟩
  | reset => exact absurd rfl hr
  | setValue _ | getMode | isConnected | getText => exact ⟨rfl, rfl⟩

/-- Settles O53: a step is idle or one event, and no event writes the constants. -/
theorem constantsNeverChange : Obligations.ConstantsNeverChange := by
  intro s t h
  obtain rfl | ⟨e, rest, -, rfl⟩ := step_perform_cases h
  · rfl
  · exact perform_cfg _ e

/-- Settles O54, register by register from the frame equations of the events. -/
theorem registersHaveTheirWriters : Obligations.RegistersHaveTheirWriters := by
  intro s t e rest hi h hr
  obtain rfl := eq_perform_of_step hi h
  exact ⟨perform_value _ e hr, perform_mode_text _ e hr, perform_connectOk _ e hr⟩

/-- Settles O55 from the frame equations of the events. -/
theorem lineMovesOnlyInAHandshake : Obligations.LineMovesOnlyInAHandshake := by
  intro s t e rest hi h hc hm hr
  obtain rfl := eq_perform_of_step hi h
  exact perform_line_baud _ e hc hm hr

end Sys2Proof.Machine
end

section
/-! The invariant of R50 is kept by every event. Inside an event the sequencer passes through states the invariant excludes: the
send step and a poll just counted; what holds there is named, and each way out is shown to meet the invariant again. -/

namespace Sys2Proof.Machine

/-! ### What the invariant asks in each sequencer step (R34) -/

theorem sequencerOk_idle {s : State} (h : s.hsStep = .idle) :
    s.sequencerOk = true ↔ s.link ≠ .handshaking ∧ s.hsTimer = 0 := by
  simp [State.sequencerOk, h]

theorem sequencerOk_pulse1 {s : State} (h : s.hsStep = .pulse1) :
    s.sequencerOk = true ↔ s.link = .handshaking ∧ s.line = .gpioLow ∧ 1 ≤ s.hsTimer ∧ s.hsTimer ≤ pulse1Ms s.profile
      ∧ s.romPtr = 0 ∧ s.hsPolls = 0 := by
  simp [State.sequencerOk, h, and_assoc]

/-- The send step stands only inside an event (R34). -/
theorem not_sequencerOk_send {s : State} (h : s.hsStep = .send) : ¬ s.sequencerOk = true := by
  simp [State.sequencerOk, h]

theorem sequencerOk_gap {s : State} (h : s.hsStep = .gap) :
    s.sequencerOk = true ↔ s.link = .handshaking ∧ s.line = .uart ∧ s.baud = initBaud s.profile ∧ 1 ≤ s.hsTimer
      ∧ s.hsTimer ≤ 18 ∧ 1 ≤ s.romPtr ∧ s.romPtr < s.romK ∧ s.hsPolls = 0 := by
  simp [State.sequencerOk, h, and_assoc]

theorem sequencerOk_ackWait {s : State} (h : s.hsStep = .ackWait) :
    s.sequencerOk = true ↔ s.link = .handshaking ∧ s.line = .uart ∧ s.baud = initBaud s.profile ∧ 1 ≤ s.hsTimer
      ∧ s.hsTimer ≤ ackPollMs ∧ s.romPtr = s.romK ∧ s.hsPolls < ackPolls := by
  simp [State.sequencerOk, h, and_assoc]

theorem sequencerOk_pulse2 {s : State} (h : s.hsStep = .pulse2) :
    s.sequencerOk = true ↔ s.link = .handshaking ∧ s.line = .gpioLow ∧ baudSwitch s.profile = true ∧ 1 ≤ s.hsTimer
      ∧ s.hsTimer ≤ pulse2Ms ∧ s.romPtr = s.romK ∧ 1 ≤ s.hsPolls := by
  simp [State.sequencerOk, h, and_assoc]

/-- The sequencer rests outside a handshake (R33). -/
theorem hsStep_idle_of_not_handshaking {s : State} (hs : s.sequencerOk = true) (h : s.link ≠ .handshaking) :
    s.hsStep = .idle := by
  cases hst : s.hsStep with
  | idle => rfl
  | send => exact absurd hs (not_sequencerOk_send hst)
  | pulse1 => exact absurd ((sequencerOk_pulse1 hst).1 hs).1 h
  | gap => exact absurd ((sequencerOk_gap hst).1 hs).1 h
  | ackWait => exact absurd ((sequencerOk_ackWait hst).1 hs).1 h
  | pulse2 => exact absurd ((sequencerOk_pulse2 hst).1 hs).1 h

/-- A delay that counts down stays in its range (R36, R171). -/
theorem sequencerOk_count {s : State} (hs : s.sequencerOk = true) (ht : 1 < s.hsTimer) :
    State.sequencerOk { s with hsTimer := s.hsTimer - 1 } = true := by
  have hmin : 1 ≤ s.hsTimer - 1 := Nat.le_sub_one_of_lt ht
  have hle : s.hsTimer - 1 ≤ s.hsTimer := Nat.sub_le _ 1
  cases hst : s.hsStep with
  | idle => have := ((sequencerOk_idle hst).1 hs).2; omega
  | send => exact absurd hs (not_sequencerOk_send hst)
  | pulse1 =>
    obtain ⟨hlink, hline, -, hmax, hrest⟩ := (sequencerOk_pulse1 hst).1 hs
    exact (sequencerOk_pulse1 rfl).2 ⟨hlink, hline, hmin, hle.trans hmax, hrest⟩
  | gap =>
    obtain ⟨hlink, hline, hbaud, -, hmax, hrest⟩ := (sequencerOk_gap hst).1 hs
    exact (sequencerOk_gap rfl).2 ⟨hlink, hline, hbaud, hmin, hle.trans hmax, hrest⟩
  | ackWait =>
    obtain ⟨hlink, hline, hbaud, -, hmax, hrest⟩ := (sequencerOk_ackWait hst).1 hs
    exact (sequencerOk_ackWait rfl).2 ⟨hlink, hline, hbaud, hmin, hle.trans hmax, hrest⟩
  | pulse2 =>
    obtain ⟨hlink, hline, hswitch, -, hmax, hrest⟩ := (sequencerOk_pulse2 hst).1 hs
    exact (sequencerOk_pulse2 rfl).2 ⟨hlink, hline, hswitch, hmin, hle.trans hmax, hrest⟩

/-! ### Ways to meet the invariant -/

/-- The clauses of the invariant that no sequencer step changes (R35, R37, R38, R39). -/
structure State.Bounded (s : State) : Prop where
  fifo   : s.rxFifo.length ≤ s.cfg.rxDepth
  parser : s.ph = .idle
  ptr    : s.romPtr ≤ s.romK
  polls  : s.hsPolls ≤ ackPolls

theorem State.Bounded.of_inv {s : State} (h : s.inv = true) : s.Bounded := by
  obtain ⟨hfifo, hph, -, -, hptr, hpolls⟩ := s.inv_iff.1 h
  exact ⟨hfifo, hph, hptr, hpolls⟩

theorem sequencerOk_of_inv {s : State} (h : s.inv = true) : s.sequencerOk = true := by
  obtain ⟨-, -, hs, -⟩ := s.inv_iff.1 h
  exact hs

theorem State.Bounded.inv_of_disconnected {s : State} (h : s.Bounded) (hlink : s.link = .disconnected) (hst : s.hsStep = .idle)
    (htimer : s.hsTimer = 0) : s.inv = true :=
  s.inv_iff.2 ⟨h.fifo, h.parser, (sequencerOk_idle hst).2 ⟨by simp [hlink], htimer⟩, by simp [hlink], h.ptr, h.polls⟩

theorem State.Bounded.inv_of_handshaking {s : State} (h : s.Bounded) (hlink : s.link = .handshaking)
    (hs : s.sequencerOk = true) : s.inv = true :=
  s.inv_iff.2 ⟨h.fifo, h.parser, hs, by simp [hlink], h.ptr, h.polls⟩

theorem State.Bounded.inv_of_connected {s : State} (h : s.Bounded) (hlink : s.link = .connected) (hst : s.hsStep = .idle)
    (htimer : s.hsTimer = 0) (hline : s.line = .uart) (hbaud : s.baud = finalBaud) : s.inv = true :=
  s.inv_iff.2 ⟨h.fifo, h.parser, (sequencerOk_idle hst).2 ⟨by simp [hlink], htimer⟩, fun _ => ⟨hline, hbaud⟩, h.ptr, h.polls⟩

/-! ### The send step -/

/-- What holds when the send step is entered, after the first pulse or a gap (R177, R181). -/
structure State.SendReady (s : State) : Prop where
  bounded : s.Bounded
  link    : s.link = .handshaking
  line    : s.line = .uart
  baud    : s.baud = initBaud s.profile
  ptr     : s.romPtr < s.romK
  polls   : s.hsPolls = 0

/-- One write of an entry ends the handshake, or stands in the ACK wait or in a gap (R178 to R180, R185). -/
theorem sendEntry_inv {s : State} (h : s.SendReady) (bytes : List Byte) (gap : Nat)
    (hgap : s.romPtr + 1 ≠ s.romK → 1 ≤ gap ∧ gap ≤ 18) : (sendEntry s bytes gap).inv = true := by
  obtain ⟨⟨hfifo, hph, hptr, hpolls⟩, hlink, hline, hbaud, hlt, hzero⟩ := h
  obtain ⟨n, -, -, ⟨-, he⟩ | ⟨-, hlast, he⟩ | ⟨-, hmore, he⟩⟩ := sendEntry_cases s bytes gap <;> rw [he]
  · exact State.Bounded.inv_of_disconnected ⟨hfifo, hph, hptr, hpolls⟩ rfl rfl rfl
  · exact State.Bounded.inv_of_handshaking ⟨hfifo, hph, hlt, Nat.zero_le _⟩ hlink
      ((sequencerOk_ackWait rfl).2
        ⟨hlink, hline, hbaud, (by decide : 1 ≤ 5), (by decide : 5 ≤ ackPollMs), hlast, (by decide : 0 < ackPolls)⟩)
  · obtain ⟨hmin, hmax⟩ := hgap hmore
    exact State.Bounded.inv_of_handshaking ⟨hfifo, hph, hlt, hpolls⟩ hlink
      ((sequencerOk_gap rfl).2 ⟨hlink, hline, hbaud, hmin, hmax, Nat.succ_pos _, lt_of_le_of_ne hlt hmore, hzero⟩)

theorem sendStep_inv {s : State} (h : s.SendReady) : (sendStep s).inv = true := by
  obtain ⟨l, hl⟩ := exists_romLine s.cfg.rom s.romPtr h.ptr
  rw [sendStep_eq s l hl]
  exact sendEntry_inv { h with bounded := { h.bounded with } } _ _ (romLine_gap s.cfg.rom s.romPtr l hl)

/-! ### A poll of the ACK wait -/

/-- What holds when a poll has been counted and its byte, if any, popped (R186). -/
structure State.PollCounted (s : State) : Prop where
  bounded : s.Bounded
  link    : s.link = .handshaking
  step    : s.hsStep = .ackWait
  line    : s.line = .uart
  baud    : s.baud = initBaud s.profile
  timer   : s.hsTimer = 0
  ptr     : s.romPtr = s.romK
  counted : 1 ≤ s.hsPolls

/-- A missed poll times the handshake out or waits on (R186, R188). -/
theorem pollMissed_inv {s : State} (h : s.PollCounted) : (pollMissed s).inv = true := by
  obtain ⟨⟨hfifo, hph, hptr, hpolls⟩, hlink, hst, hline, hbaud, htimer, hend, -⟩ := h
  unfold pollMissed
  split
  · exact State.Bounded.inv_of_disconnected ⟨hfifo, hph, hptr, hpolls⟩ rfl rfl htimer
  next hmore =>
    exact State.Bounded.inv_of_handshaking ⟨hfifo, hph, hptr, hpolls⟩ hlink
      ((sequencerOk_ackWait (s := s.delay ackPollMs) hst).2
        ⟨hlink, hline, hbaud, (by decide : 1 ≤ ackPollMs), le_rfl, hend, lt_of_le_of_ne hpolls hmore⟩)

/-- Without a second pulse the device keeps its initial baud rate, which is then the final one (R7). -/
theorem initBaud_eq_finalBaud {p : Profile} (h : ¬ baudSwitch p = true) : initBaud p = finalBaud := by
  cases p
  · exact absurd rfl h
  · rfl

/-- An acknowledged handshake is in its second pulse or `Connected` (R189, R190, R192). -/
theorem acknowledged_inv {s : State} (h : s.PollCounted) : (acknowledged s).inv = true := by
  obtain ⟨⟨hfifo, hph, hptr, hpolls⟩, hlink, -, hline, hbaud, htimer, hend, hcounted⟩ := h
  unfold acknowledged
  split
  next hswitch =>
    exact State.Bounded.inv_of_handshaking ⟨hfifo, hph, hptr, hpolls⟩ hlink
      ((sequencerOk_pulse2 rfl).2 ⟨hlink, rfl, hswitch, (by decide : 1 ≤ pulse2Ms), le_rfl, hend, hcounted⟩)
  next hkeep =>
    exact State.Bounded.inv_of_connected ⟨hfifo, hph, hptr, hpolls⟩ rfl rfl htimer hline
      (hbaud.trans (initBaud_eq_finalBaud hkeep))

/-- A report on the diagnostic output leaves a counted poll as it is. -/
theorem State.PollCounted.emit {s : State} (h : s.PollCounted) (d : Diag) : (s.emit d).PollCounted :=
  { h with bounded := { h.bounded with } }

/-- Counting a poll of an ACK wait and popping at most one byte (R186). -/
theorem pollCounted_of_ackWait {s : State} (h : s.inv = true) (hst : s.hsStep = .ackWait) {fifo : List Byte}
    (hfifo : fifo.length ≤ s.rxFifo.length) :
    State.PollCounted { s with hsTimer := 0, hsPolls := s.hsPolls + 1, rxFifo := fifo } := by
  obtain ⟨hdepth, hph, hptr, -⟩ := State.Bounded.of_inv h
  obtain ⟨hlink, hline, hbaud, -, -, hend, hpolls⟩ := (sequencerOk_ackWait hst).1 (sequencerOk_of_inv h)
  exact ⟨⟨hfifo.trans hdepth, hph, hptr, hpolls⟩, hlink, hst, hline, hbaud, rfl, hend, Nat.succ_pos _⟩

theorem poll_inv {s : State} (h : s.inv = true) (hst : s.hsStep = .ackWait) : (poll { s with hsTimer := 0 }).inv = true := by
  rw [poll_eq]
  dsimp only
  cases hf : s.rxFifo with
  | nil => exact pollMissed_inv (pollCounted_of_ackWait h hst (Nat.zero_le _))
  | cons b rest =>
    have hc := pollCounted_of_ackWait h hst (fifo := rest) (by simp [hf])
    dsimp only
    split
    · exact acknowledged_inv hc
    · exact pollMissed_inv (hc.emit _)

/-! ### A millisecond -/

/-- The end of the first pulse opens the line at the initial baud rate and sends entry 0 (R176, R177). -/
theorem endPulse1_inv {s : State} (h : s.Bounded) (hlink : s.link = .handshaking) (hptr : s.romPtr = 0) (hpolls : s.hsPolls = 0) :
    (endPulse1 s).inv = true := by
  have hlt : s.romPtr < s.romK := by
    rw [hptr]
    exact Nat.lt_of_lt_of_le (by decide) (six_le_romLength _)
  exact sendStep_inv ⟨⟨Nat.zero_le _, h.parser, h.ptr, h.polls⟩, hlink, rfl, rfl, hlt, hpolls⟩

/-- The end of the second pulse opens the line at the final baud rate (R191, R192). -/
theorem endPulse2_inv {s : State} (h : s.Bounded) (htimer : s.hsTimer = 0) : (endPulse2 s).inv = true := by
  obtain ⟨-, hph, hptr, hpolls⟩ := h
  exact State.Bounded.inv_of_connected ⟨Nat.zero_le _, hph, hptr, hpolls⟩ rfl rfl htimer rfl rfl

/-- The exit rule of every delay, at its last millisecond (R176, R181, R186, R191). -/
theorem exitStep_inv {s : State} (h : s.inv = true) (hidle : s.hsStep ≠ .idle) :
    (exitStep { s with hsTimer := 0 }).inv = true := by
  obtain ⟨hfifo, hph, hptr, hpolls⟩ := State.Bounded.of_inv h
  have hs := sequencerOk_of_inv h
  unfold exitStep
  split
  next hst => exact absurd hst hidle
  next hst =>
    obtain ⟨hlink, -, -, -, hzero, hnone⟩ := (sequencerOk_pulse1 (s := s) hst).1 hs
    exact endPulse1_inv (s := { s with hsTimer := 0 }) ⟨hfifo, hph, hptr, hpolls⟩ hlink hzero hnone
  next hst => exact absurd hs (not_sequencerOk_send (s := s) hst)
  next hst =>
    obtain ⟨hlink, hline, hbaud, -, -, -, hlt, hnone⟩ := (sequencerOk_gap (s := s) hst).1 hs
    exact sendStep_inv ⟨⟨hfifo, hph, hptr, hpolls⟩, hlink, hline, hbaud, hlt, hnone⟩
  next hst => exact poll_inv h hst
  next => exact endPulse2_inv (s := { s with hsTimer := 0 }) ⟨hfifo, hph, hptr, hpolls⟩ rfl

theorem millisecond_inv {s : State} (h : s.inv = true) : (millisecond s).inv = true := by
  obtain ⟨-, he⟩ | ⟨-, ht, he⟩ | ⟨hidle, -, he⟩ := millisecond_cases s <;> rw [he]
  · exact h
  · obtain ⟨hfifo, hph, hs, hopen, hptr, hpolls⟩ := s.inv_iff.1 h
    exact (State.inv_iff _).2 ⟨hfifo, hph, sequencerOk_count hs ht, hopen, hptr, hpolls⟩
  · exact exitStep_inv h hidle

/-! ### The other events -/

theorem startHandshake_inv {s : State} (h : s.inv = true) : (startHandshake s).inv = true := by
  have hmin : 1 ≤ pulse1Ms s.profile := by cases s.profile <;> decide
  exact State.Bounded.inv_of_handshaking ⟨(State.Bounded.of_inv h).fifo, rfl, Nat.zero_le _, Nat.zero_le _⟩ rfl
    ((sequencerOk_pulse1 rfl).2 ⟨rfl, rfl, hmin, le_rfl, rfl, rfl⟩)

theorem perform_connect_inv {s : State} (h : s.inv = true) : (s.perform .connect).inv = true := by
  obtain ⟨-, he⟩ | ⟨-, he⟩ := perform_connect_cases s <;> rw [he]
  · exact h
  · exact startHandshake_inv h

/-- A drain keeps the invariant: it empties the FIFO, ends with the parser idle and leaves the sequencer alone (R211, R212). -/
theorem drain_inv {s : State} (h : s.inv = true) : (drain s).inv = true := by
  obtain ⟨-, -, hs, hopen, hptr, hpolls⟩ := s.inv_iff.1 h
  have hseq : (drain s).sequencerOk = s.sequencerOk := congrArg (·.sequencerOk) (drain_frame s)
  rw [State.inv_iff, drain_rxFifo, drain_ph, hseq, drain_link, drain_line, drain_baud, drain_romPtr, drain_hsPolls, State.romK,
    drain_cfg]
  exact ⟨Nat.zero_le _, rfl, hs, hopen, hptr, hpolls⟩

theorem loseLink_inv {s : State} (h : s.inv = true) (hlink : s.link = .connected) (n : Nat) : (s.loseLink n).inv = true := by
  obtain ⟨hfifo, hph, hptr, hpolls⟩ := State.Bounded.of_inv h
  have hs := sequencerOk_of_inv h
  have hst := hsStep_idle_of_not_handshaking hs (by simp [hlink])
  exact State.Bounded.inv_of_disconnected ⟨hfifo, hph, hptr, hpolls⟩ rfl hst ((sequencerOk_idle hst).1 hs).2

theorem wrote_inv (s : State) (bytes : List Byte) (n : Nat) : (s.wrote bytes n).inv = s.inv := rfl

theorem perform_tick_inv {s : State} (h : s.inv = true) : (s.perform .tick).inv = true := by
  obtain ⟨-, he⟩ | ⟨hlink, unit, n, he | he⟩ := perform_tick_cases s <;> rw [he]
  · exact h
  · exact (wrote_inv ..).trans (drain_inv h)
  · exact loseLink_inv ((wrote_inv ..).trans (drain_inv h)) ((drain_link s).trans hlink) n

theorem perform_rx_inv {s : State} (h : s.inv = true) (b : Byte) : (s.perform (.rx b)).inv = true := by
  obtain he | ⟨hroom, he⟩ := perform_rx_cases s b <;> rw [he]
  · exact h
  · obtain ⟨-, hrest⟩ := s.inv_iff.1 h
    exact (State.inv_iff _).2 ⟨by simpa using hroom, hrest⟩

/-- Settles O50: the reset values are those of a `Disconnected` device at rest. -/
theorem resetMeetsTheInvariant : Obligations.ResetMeetsTheInvariant :=
  fun _ => State.Bounded.inv_of_disconnected ⟨Nat.zero_le _, rfl, Nat.zero_le _, Nat.zero_le _⟩ rfl rfl rfl

/-- Every event keeps the invariant. Those that return or store a value write no field it reads. -/
theorem perform_inv {s : State} (h : s.inv = true) (e : Event) : (s.perform e).inv = true := by
  cases e with
  | connect => exact perform_connect_inv h
  | tick => exact perform_tick_inv h
  | ms => exact millisecond_inv h
  | rx b => exact perform_rx_inv h b
  | reset => exact resetMeetsTheInvariant s.cfg
  | setValue _ | getMode | isConnected | getText => exact h

/-- Settles O51: a step is idle or one event, and every event keeps the invariant. -/
theorem stepKeepsTheInvariant : Obligations.StepKeepsTheInvariant := by
  intro s t h hstep
  obtain rfl | ⟨e, rest, -, rfl⟩ := step_perform_cases hstep
  · exact h
  · exact perform_inv ((s.inv_inputs rest).trans h) e

end Sys2Proof.Machine
end

section
/-! The transmit log under one event: a tick in `Connected` and the send step of a handshake append one write, nothing else
appends (R76, R84, R259, R260). -/

namespace Sys2Proof.Machine

/-- `t` has made exactly one write since `s`. -/
def OneMoreWrite (s t : State) : Prop := ∃ w, t.txLog = s.txLog ++ [w]

/-- The two situations in which an event may transmit. -/
def State.MayTransmit (s : State) (e : Event) : Prop :=
  e = .tick ∧ s.link = .connected ∨ e = .ms ∧ s.hsStep ≠ .idle

theorem drain_txLog (s : State) : (drain s).txLog = s.txLog := congrArg (·.txLog) (drain_frame s)

/-- A tick in `Connected` makes one write, whether or not its count is short (R259). -/
theorem perform_tick_oneMoreWrite {s : State} (hc : s.link = .connected) : OneMoreWrite s (s.perform .tick) := by
  obtain ⟨hn, -⟩ | ⟨-, unit, n, h | h⟩ := perform_tick_cases s
  · exact absurd hc hn
  all_goals
    rw [h, OneMoreWrite, ← drain_txLog s]
    exact ⟨_, rfl⟩

/-- A ROM entry is one write, whichever way it ends (R178). -/
theorem sendEntry_oneMoreWrite (s : State) (bytes : List Byte) (gap : Nat) : OneMoreWrite s (sendEntry s bytes gap) := by
  obtain ⟨n, -, -, ⟨-, h⟩ | ⟨-, -, h⟩ | ⟨-, -, h⟩⟩ := sendEntry_cases s bytes gap <;> rw [h] <;> exact ⟨_, rfl⟩

/-- The send step writes nothing only behind the ROM's end. -/
theorem sendStep_txLog (s : State) : (sendStep s).txLog = s.txLog ∨ OneMoreWrite s (sendStep s) := by
  cases hl : s.romLine? with
  | none => exact .inl (by rw [sendStep, hl])
  | some l =>
    rw [sendStep_eq s l hl]
    exact .inr (sendEntry_oneMoreWrite _ _ _)

theorem pollMissed_txLog (s : State) : (pollMissed s).txLog = s.txLog := by
  unfold pollMissed
  split <;> rfl

theorem acknowledged_txLog (s : State) : (acknowledged s).txLog = s.txLog := by
  unfold acknowledged
  split <;> rfl

/-- A poll reads and writes nothing (R186). -/
theorem poll_txLog (s : State) : (poll s).txLog = s.txLog := by
  rw [poll_eq]
  split
  · exact pollMissed_txLog _
  · split
    · exact acknowledged_txLog _
    · exact pollMissed_txLog _

/-- Of the exits of a step only those of the first pulse and of a gap write: both are the send step (R176, R181). -/
theorem exitStep_txLog (s : State) : (exitStep s).txLog = s.txLog ∨ OneMoreWrite s (exitStep s) := by
  unfold exitStep
  cases s.hsStep with
  | pulse1 => exact sendStep_txLog _
  | gap => exact sendStep_txLog s
  | ackWait => exact .inl (poll_txLog s)
  | idle | send | pulse2 => exact .inl rfl

/-- A millisecond writes at most once, and nothing outside a handshake (R171). -/
theorem millisecond_txLog (s : State) :
    (millisecond s).txLog = s.txLog ∨ s.hsStep ≠ .idle ∧ OneMoreWrite s (millisecond s) := by
  obtain ⟨-, h⟩ | ⟨-, -, h⟩ | ⟨hidle, -, h⟩ := millisecond_cases s <;> rw [h]
  · exact .inl rfl
  · exact .inl rfl
  · exact (exitStep_txLog _).imp_right fun hw => ⟨hidle, hw⟩

/-- An event leaves the transmit log alone, or may transmit and makes one write. -/
theorem perform_txLog (s : State) (e : Event) :
    (s.perform e).txLog = s.txLog ∨ s.MayTransmit e ∧ OneMoreWrite s (s.perform e) := by
  cases e with
  | connect => exact .inl (congrArg (·.txLog) (connect_frame s))
  | tick =>
    obtain ⟨-, h⟩ | ⟨hc, -⟩ := perform_tick_cases s
    · exact .inl (congrArg (·.txLog) h)
    · exact .inr ⟨.inl ⟨rfl, hc⟩, perform_tick_oneMoreWrite hc⟩
  | ms => exact (millisecond_txLog s).imp_right fun ⟨hidle, hw⟩ => ⟨.inr ⟨rfl, hidle⟩, hw⟩
  | rx b => exact .inl (congrArg (·.txLog) (rx_frame s b))
  | setValue _ | getMode | isConnected | getText | reset => exact .inl rfl

/-- Settles O56: a step with an event to come is that event, whose effect on the transmit log is known. -/
theorem atMostOneWritePerEvent : Obligations.AtMostOneWritePerEvent := by
  intro s t e rest hi h
  obtain rfl := eq_perform_of_step hi h
  refine ⟨perform_txLog _ e, ?_⟩
  rintro rfl hc
  exact perform_tick_oneMoreWrite hc

end Sys2Proof.Machine
end

section
/-! The receive primitive `rx` (R62, decision D8). -/

namespace Sys2Proof.Machine

theorem State.receive_of_room {s : State} (hl : s.line = .uart) (hr : s.rxFifo.length < s.cfg.rxDepth) (b : Byte) :
    s.receive b = { s with rxFifo := s.rxFifo ++ [b] } :=
  if_pos ⟨hl, hr⟩

theorem State.receive_of_full {s : State} (hf : s.cfg.rxDepth ≤ s.rxFifo.length) (b : Byte) : s.receive b = s :=
  if_neg fun ⟨_, hr⟩ => absurd hr (Nat.not_lt.2 hf)

theorem State.receive_of_line_ne {s : State} (hl : s.line ≠ .uart) (b : Byte) : s.receive b = s :=
  if_neg fun ⟨hu, _⟩ => hl hu

/-- Settles O46, case by case from what the receive primitive does. -/
theorem arrivingByteIsQueuedOrLost : Obligations.ArrivingByteIsQueuedOrLost := by
  intro s b
  have hexec : exec (.rx b) s = .next (s.receive b) := exec_event (.rx b) s
  rw [hexec]
  exact ⟨fun hl hr => congrArg _ (State.receive_of_room hl hr b), fun _ hf => congrArg _ (State.receive_of_full hf.ge b),
    fun hl => congrArg _ (State.receive_of_line_ne hl b)⟩

end Sys2Proof.Machine
end

section
/-! Decoding of a non-empty string in steady state is total (R107): a leading byte opens its message, and a message decodes or
names the phase in which its bytes end. -/

namespace Sys2Proof
open Machine

/-- What decoding past a leading byte may answer: an instruction, or the phase in progress where bytes are missing (R212). -/
def Decoded.OkOrInMessage (d : Decoded) : Prop :=
  (∃ i rest, d = .ok i rest) ∨ ∃ ph, ph ≠ .idle ∧ d = .rejected (.truncated ph)

@[simp] theorem Decoded.ok_okOrInMessage (i : Instr) (rest : List Byte) : (Decoded.ok i rest).OkOrInMessage :=
  .inl ⟨i, rest, rfl⟩

@[simp] theorem Decoded.truncated_okOrInMessage (ph : Phase) :
    (Decoded.rejected (.truncated ph)).OkOrInMessage ↔ ph ≠ .idle := by
  simp [OkOrInMessage]

theorem decodeSelect_okOrInMessage : ∀ r : List Byte, (decodeSelect r).OkOrInMessage
  | [] => by simp [decodeSelect]
  | [_] => by simp [decodeSelect]
  | _ :: _ :: _ => by simp [decodeSelect]

theorem decodeDataFrame_okOrInMessage (m0 m1 : Byte) : ∀ r : List Byte, (decodeDataFrame m0 m1 r).OkOrInMessage
  | [] => by simp [decodeDataFrame]
  | sm :: r => by
    rw [decodeDataFrame]
    split
    · simp
    · cases r.drop (declaredLength sm) <;> simp

theorem decodeWriteData_okOrInMessage (p : Profile) : ∀ r : List Byte, (decodeWriteData p r).OkOrInMessage
  | [] => by simp [decodeWriteData]
  | [_] => by simp [decodeWriteData]
  | m0 :: m1 :: r => by
    rw [decodeWriteData]
    split
    · exact decodeDataFrame_okOrInMessage m0 m1 r
    · simp

theorem decodeCombo_okOrInMessage (p : Profile) (r : List Byte) : (decodeCombo p r).OkOrInMessage := by
  unfold decodeCombo
  split
  · simp
  · cases r.drop (comboLen p) <;> simp

/-- The dispatch of R103: five leading bytes open their message, any other is `UNKNOWN`. -/
theorem decodeSteady_dispatch (p : Profile) (r : List Byte) :
    decodeSteady p (0x00 :: r) = .ok .nop0 r
      ∧ decodeSteady p (0x02 :: r) = .ok .keepalive r
      ∧ decodeSteady p (0x43 :: r) = decodeSelect r
      ∧ decodeSteady p (0x46 :: r) = decodeWriteData p r
      ∧ decodeSteady p (0x4C :: r) = decodeCombo p r
      ∧ ∀ b : Byte, b ≠ 0x00 → b ≠ 0x02 → b ≠ 0x43 → b ≠ 0x46 → b ≠ 0x4C →
          decodeSteady p (b :: r) = .ok (.unknown b) r :=
  ⟨rfl, rfl, rfl, rfl, rfl, fun b h0 h2 h43 h46 h4C =>
    decodeSteady_unknown p b r (by simpa [recognisedLeading, and_assoc] using ⟨h0, h2, h43, h46, h4C⟩)⟩

/-- By the dispatch, each message answers for the strings its leading byte opens. -/
theorem decodeSteady_okOrInMessage (p : Profile) (b : Byte) (r : List Byte) : (decodeSteady p (b :: r)).OkOrInMessage := by
  rw [decodeSteady]
  split_ifs
  · exact Decoded.ok_okOrInMessage ..
  · exact Decoded.ok_okOrInMessage ..
  · exact decodeSelect_okOrInMessage r
  · exact decodeWriteData_okOrInMessage p r
  · exact decodeCombo_okOrInMessage p r
  · exact Decoded.ok_okOrInMessage ..

/-- The five leading bytes of R103 leave 251 of the 256 to `UNKNOWN`. -/
theorem unknownLeading_count : ((List.range 256).filter (fun n => !recognisedLeading (BitVec.ofNat 8 n))).length = 251 := by
  decide +kernel

/-- Settles O9: the dispatch by leading byte, the totality of every message's decoder, and the count of the other bytes. -/
theorem everyLeadingByteHasADefinedEffect : Obligations.EveryLeadingByteHasADefinedEffect :=
  ⟨decodeSteady_dispatch, decodeSteady_okOrInMessage, unknownLeading_count⟩

end Sys2Proof
end

section
/-! The checksum as an exclusive or in any order (R130, R140), and what it says of frames: `verify_frame` is true exactly of the
non-empty strings of checksum zero (R138), which one changed byte leaves and two bytes changed alike do not (R139). -/

namespace Sys2Proof.Machine

theorem exec_checksum (bs : List Byte) (s : State) : exec (.checksum bs) s = .next (s.answer (.byte (checksum bs))) := rfl

theorem exec_buildFrame (h : Byte) (p : List Byte) (s : State) :
    exec (.buildFrame h p) s = .next (s.answer (.bytes (buildFrame h p))) := rfl

theorem exec_verifyFrame (r : List Byte) (s : State) :
    exec (.verifyFrame r) s = .next (s.answer (.verdict (verifyFrame r))) := rfl

/-- The checksum folded from the last byte to the first. -/
theorem checksum_eq_foldr (bs : List Byte) : checksum bs = bs.foldr (fun b a => b ^^^ a) 0xFF :=
  List.foldl_eq_foldr (f := fun a b : Byte => a ^^^ b)

/-- Exclusive or commutes, so the order of the bytes does not matter. -/
theorem checksum_perm {q bs : List Byte} (h : q.Perm bs) : checksum q = checksum bs :=
  h.foldl_eq (f := fun acc b : Byte => acc ^^^ b) 0xFF

theorem checksum_cons_eq_xor (b : Byte) (bs : List Byte) : checksum (b :: bs) = b ^^^ checksum bs := by
  rw [checksum_eq_foldr, checksum_eq_foldr, List.foldr_cons]

theorem checksum_append_singleton (bs : List Byte) (x : Byte) : checksum (bs ++ [x]) = checksum bs ^^^ x := by
  simp only [checksum, List.foldl_append, List.foldl_cons, List.foldl_nil]

/-- Both checksums start at 0xFF; one of the two starts is taken out again. -/
theorem checksum_append (a b : List Byte) : checksum (a ++ b) = checksum a ^^^ checksum b ^^^ 0xFF := by
  induction a with
  | nil => rw [List.nil_append, checksum_nil, BitVec.xor_comm 0xFF, xor_cancel_right]
  | cons x a ih => rw [List.cons_append, checksum_cons_eq_xor, checksum_cons_eq_xor, ih]; simp only [BitVec.xor_assoc]

/-- Where a byte is replaced, the old one is taken out of the checksum and the new one put in. -/
theorem checksum_set : ∀ (r : List Byte) (i : Nat) (h : i < r.length) (b : Byte),
    checksum (r.set i b) = checksum r ^^^ (r[i] ^^^ b)
  | x :: xs, 0, _, b => by
    rw [List.set_cons_zero, List.getElem_cons_zero, checksum_cons_eq_xor, checksum_cons_eq_xor]
    rw [BitVec.xor_comm x (checksum xs), BitVec.xor_assoc, xor_cancel_left, BitVec.xor_comm]
  | x :: xs, i + 1, h, b => by
    rw [List.set_cons_succ, List.getElem_cons_succ, checksum_cons_eq_xor, checksum_cons_eq_xor,
      checksum_set xs i (Nat.lt_of_succ_lt_succ h), BitVec.xor_assoc]

/-- The checksum starts at all ones, so it is zero exactly where the fold from zero is all ones. -/
theorem checksum_eq_zero_iff (bs : List Byte) : checksum bs = 0#8 ↔ bs.foldr (fun b a => b ^^^ a) 0 = 0xFF := by
  rw [checksum_eq_start, List.foldl_eq_foldr (f := fun a b : Byte => a ^^^ b), BitVec.xor_eq_zero_iff]
  exact eq_comm

/-- The last byte is the checksum of those before it exactly where the whole string has checksum zero (R138; D29). -/
theorem verifyFrame_iff (r : List Byte) : verifyFrame r = true ↔ r ≠ [] ∧ checksum r = 0#8 := by
  cases r using List.reverseRecOn with
  | nil => simp [verifyFrame]
  | append_singleton bs c =>
    rw [verifyFrame_concat, checksum_append_singleton, BitVec.xor_eq_zero_iff, beq_iff_eq]
    simp

/-- A valid frame with one byte replaced is valid exactly where the new byte is the old one. -/
theorem verifyFrame_set_iff {r : List Byte} (hr : verifyFrame r = true) {i : Nat} (h : i < r.length) (b : Byte) :
    verifyFrame (r.set i b) = true ↔ b = r[i] := by
  obtain ⟨hne, hz⟩ := (verifyFrame_iff r).mp hr
  rw [verifyFrame_iff, checksum_set r i h, hz, BitVec.zero_xor, BitVec.xor_eq_zero_iff, eq_comm (a := r[i])]
  simp [hne]

/-- The same mask on two bytes cancels in the checksum. -/
theorem checksum_set_set_xor (r : List Byte) {i j : Nat} (hi : i < r.length) (hj : j < r.length) (m : Byte) (hij : i ≠ j) :
    checksum ((r.set i (r[i] ^^^ m)).set j (r[j] ^^^ m)) = checksum r := by
  rw [checksum_set _ j (by rwa [List.length_set]), List.getElem_set_ne hij, checksum_set r i hi]
  rw [xor_cancel_left, xor_cancel_left, xor_cancel_right]

/-- Settles O1: the row answers the checksum, which is the fold from either end and does not see the order. -/
theorem checksumFoldsEveryByte : Obligations.ChecksumFoldsEveryByte := by
  intro bytes s
  refine ⟨?_, fun q hq => ?_⟩
  · rw [exec_checksum, checksum_eq_foldr, State.answer]
  · rw [exec_checksum, exec_checksum, checksum_perm hq]

/-- Settles O2: a byte more is one exclusive or, a string more the exclusive or of both checksums without one start. -/
theorem checksumOfConcatenation : Obligations.ChecksumOfConcatenation :=
  fun a b x => ⟨checksum_append a b, checksum_append_singleton a x⟩

/-- Settles O3: the row answers the built frame, whose parts are those of R131. -/
theorem buildFrameAppendsChecksum : Obligations.BuildFrameAppendsChecksum := by
  intro h p s
  constructor
  · rw [exec_buildFrame, buildFrame, State.answer, List.singleton_append]
  · rw [buildFrame, List.length_append, List.length_cons, List.length_singleton]

/-- Settles O4: the verdict is that of the checksum, zero exactly where the fold from zero is all ones. -/
theorem verifyFrameFoldsToAllOnes : Obligations.VerifyFrameFoldsToAllOnes := by
  intro r s
  have hverdict : verifyFrame r = decide (r ≠ [] ∧ r.foldr (fun b a => b ^^^ a) 0 = 0xFF) := by
    rw [Bool.eq_iff_iff, decide_eq_true_iff, verifyFrame_iff, checksum_eq_zero_iff]
  rw [exec_verifyFrame, hverdict, State.answer]

/-- Settles O5: the byte appended is the checksum of the bytes before it. -/
theorem builtFrameVerifies : Obligations.BuiltFrameVerifies := by
  intro h p
  rw [buildFrame, verifyFrame_concat, beq_self_eq_true]

/-- Settles O6: a changed byte moves the checksum away from zero, two bytes changed by the same mask leave it there. -/
theorem errorDetectionOfTheChecksum : Obligations.ErrorDetectionOfTheChecksum := by
  intro r hr
  refine ⟨fun i h b hb => ?_, fun i j hi hj m hij => ?_⟩
  · exact Bool.eq_false_iff.mpr fun hv => hb ((verifyFrame_set_iff hr h b).mp hv)
  · obtain ⟨hne, hz⟩ := (verifyFrame_iff r).mp hr
    refine (verifyFrame_iff _).mpr ⟨?_, (checksum_set_set_xor r hi hj m hij).trans hz⟩
    simpa using hne

end Sys2Proof.Machine
end

section
/-! The handshake ROM as a list of entries: its shape (R150 to R158), and the lists accepted as a ROM of either profile (U1). -/

namespace Sys2Proof.Machine

/-! ### What is in the list -/

/-- An entry of the ROM is a line of its program (R150). -/
theorem exists_romLine_of_romEntries {r : Rom} {i : Nat} {e : List Byte × Nat} (h : (romEntries r)[i]? = some e) :
    ∃ l, (romProgram r)[i]? = some l ∧ (encode l.instr, l.gap) = e := by
  rwa [romEntries, List.getElem?_map, Option.map_eq_some_iff] at h

/-- Six entries stand outside the mode groups, seven in each (R152 to R154). -/
theorem length_romEntries (r : Rom) : (romEntries r).length = 6 + 7 * r.groups.length := by
  have hgroups : (r.groups.flatMap groupEntries).length = r.groups.length * 7 := by
    simp [List.length_flatMap, groupEntries]
  rw [romEntries_eq]
  simp only [List.length_cons, List.length_append, List.length_nil, hgroups]
  omega

/-- Every entry of a mode group is that of a frame (R154). -/
theorem exists_frame_of_mem_groupEntries {g : ModeGroup} {e : List Byte × Nat} (h : e ∈ groupEntries g) :
    ∃ f, e = frameEntry f := by
  simp only [groupEntries, List.mem_cons, List.not_mem_nil, or_false] at h
  rcases h with h | h | h | h | h | h | h <;> exact ⟨_, h⟩

/-- Between SYNC and ACK every entry is that of a frame (R153, R154). -/
theorem exists_frame_of_between {r : Rom} {i : Nat} {e : List Byte × Nat} (h0 : 0 < i) (hi : i + 1 < (romEntries r).length)
    (h : (romEntries r)[i]? = some e) : ∃ f, e = frameEntry f := by
  obtain ⟨j, rfl⟩ : ∃ j, i = j + 1 := ⟨i - 1, by omega⟩
  rw [romEntries_eq] at h hi
  rw [List.getElem?_cons_succ] at h
  simp only [← List.cons_append] at h
  rw [List.getElem?_append_left (by simp at hi ⊢; omega)] at h
  have hmem := List.mem_of_getElem? h
  simp only [List.mem_cons, List.mem_flatMap] at hmem
  rcases hmem with h | h | h | h | ⟨g, -, h⟩
  · exact ⟨r.type, h⟩
  · exact ⟨r.modes, h⟩
  · exact ⟨r.speed, h⟩
  · exact ⟨r.version, h⟩
  · exact exists_frame_of_mem_groupEntries h

/-- Settles O11: the list written out gives its length and ends, its inner entries are frames, and the gaps are those of its lines. -/
theorem romEntriesHaveTheirShape : Obligations.RomEntriesHaveTheirShape := by
  intro r
  refine ⟨length_romEntries r, ⟨gapMs r.syncGap, by rw [romEntries_eq]; rfl⟩, ?_, fun i e h0 hi he => ?_, fun i e hi he => ?_⟩
  · rw [romEntries_eq]
    simp only [← List.cons_append, List.getLast?_concat]
  · obtain ⟨f, rfl⟩ := exists_frame_of_between h0 hi he
    exact ⟨verifyFrame_frameEntry f, three_le_frameEntry f⟩
  · obtain ⟨l, hl, rfl⟩ := exists_romLine_of_romEntries he
    rw [romEntries_length] at hi
    exact romLine_gap r i l hl (by omega)

/-! ### Which lists are accepted -/

theorem frameOf?_frameEntry (f : RomFrame) : frameOf? (frameEntry f) = some f := (frameOf?_eq_some _ f).2 rfl

theorem gapOf?_gapMs (g : Gap) : gapOf? (gapMs g) = some g := (gapOf?_eq_some _ g).2 rfl

/-- The entries of groups with the ACK entry behind them are read as those groups (R152, R154). -/
theorem groupsOf?_groupEntries (gs : List ModeGroup) : groupsOf? (gs.flatMap groupEntries ++ [([0x04], 0)]) = some gs := by
  induction gs with
  | nil => rfl
  | cons g gs ih =>
    simp only [List.flatMap_cons, groupEntries, List.cons_append, List.nil_append, groupsOf?, frameOf?_frameEntry, ih]

/-- What is read as groups is their entries with the ACK entry behind them (R152, R154). -/
theorem groupEntries_of_groupsOf? {es : List (List Byte × Nat)} {gs : List ModeGroup} (h : groupsOf? es = some gs) :
    gs.flatMap groupEntries ++ [([0x04], 0)] = es := by
  fun_induction groupsOf? es generalizing gs with
  | case1 =>
    cases h
    rfl
  | case3 a b c d e f g rest a' b' c' d' e' f' g' gs' hgs hg hf he hd hc hb ha ih =>
    cases h
    rw [frameOf?_eq_some] at ha hb hc hd he hf hg
    rw [List.flatMap_cons, List.append_assoc, ih hgs]
    simp only [groupEntries, ha, hb, hc, hd, he, hf, hg, List.cons_append, List.nil_append]
  | case2 | case4 | case5 => cases h

/-- A list is accepted as a ROM exactly when it is the entry list of that ROM (U1). -/
theorem romOfEntries?_eq_some (es : List (List Byte × Nat)) (r : Rom) : romOfEntries? es = some r ↔ romEntries r = es := by
  rw [romEntries_eq]
  constructor
  · fun_cases romOfEntries? es with
    | case1 s t m sp v rest g0 t' m' sp' v' gs hgs hv hsp hm ht hg0 hs =>
      rintro ⟨⟩
      rw [gapOf?_eq_some] at hg0
      rw [frameOf?_eq_some] at ht hm hsp hv
      have hsync : ([0x00], gapMs g0) = s := Prod.ext hs.symm hg0
      simp only [hsync, ht, hm, hsp, hv, groupEntries_of_groupsOf? hgs]
    | case2 | case3 | case4 => rintro ⟨⟩
  · rintro rfl
    simp only [romOfEntries?, gapOf?_gapMs, frameOf?_frameEntry, groupsOf?_groupEntries]
    rfl

/-- The array modes of a complete Generic table are the four of R155, each once. -/
theorem tableComplete_generic (arrays : List (ArrayMode × ModeGroup)) (domain : List ModeGroup) :
    tableComplete (.generic arrays domain) = true ↔ (arrays.map Prod.fst).Perm arrayModes :=
  List.isPerm_iff

/-- A complete Generic table has four array modes (R155). -/
theorem length_arrays_of_tableComplete {arrays : List (ArrayMode × ModeGroup)} {domain : List ModeGroup}
    (h : tableComplete (.generic arrays domain) = true) : arrays.length = 4 := by
  simpa [arrayModes] using ((tableComplete_generic arrays domain).1 h).length_eq

/-- The first four groups of a ROM made from a complete Generic table are those of the array modes (R155). -/
theorem arrayGroups_of_tableComplete {r : Rom} {arrays : List (ArrayMode × ModeGroup)} {domain : List ModeGroup}
    (hg : r.groups = tableGroups (.generic arrays domain)) (hc : tableComplete (.generic arrays domain) = true) :
    arrayGroups .generic r = arrays.map Prod.snd := by
  rw [arrayGroups, hg, tableGroups]
  exact List.take_left' (by rw [List.length_map, length_arrays_of_tableComplete hc]; rfl)

/-- Behind them stand the domain-specific modes (R155). -/
theorem ownGroups_of_tableComplete {r : Rom} {arrays : List (ArrayMode × ModeGroup)} {domain : List ModeGroup}
    (hg : r.groups = tableGroups (.generic arrays domain)) (hc : tableComplete (.generic arrays domain) = true) :
    ownGroups .generic r = domain := by
  rw [ownGroups, hg, tableGroups]
  exact List.drop_left' (by rw [List.length_map, length_arrays_of_tableComplete hc]; rfl)

/-- A ROM meets its profile's rules exactly when a complete mode table of the profile has its groups (R155, R156). -/
theorem romMeetsProfile_iff_exists_table (p : Profile) (r : Rom) :
    romMeetsProfile p r = true ↔ ∃ t, tableProfile t = p ∧ tableComplete t = true ∧ r.groups = tableGroups t := by
  cases p with
  | ev3Compatible =>
    have hr : r.groups = tableGroups (.ev3Compatible r.groups.reverse) := by rw [tableGroups, List.reverse_reverse]
    exact iff_of_true (romMeetsProfile_ev3Compatible r) ⟨_, rfl, rfl, hr⟩
  | generic =>
    rw [romMeetsProfile_generic]
    constructor
    · intro h
      have hlen : (arrayGroups .generic r).length = arrayModes.length := h
      refine ⟨.generic (arrayModes.zip (arrayGroups .generic r)) (ownGroups .generic r), rfl, ?_, ?_⟩
      · rw [tableComplete_generic, List.map_fst_zip hlen.ge]
      · rw [tableGroups, List.map_snd_zip hlen.le, arrayGroups_append_ownGroups]
    · rintro ⟨t, ht, hc, hg⟩
      cases t with
      | ev3Compatible byNumber => cases ht
      | generic arrays domain =>
        rw [arrayGroups_of_tableComplete hg hc, List.length_map, length_arrays_of_tableComplete hc]

/-- Settles O57: a list is refused unless it is a ROM's, and a ROM unless a complete table of the profile has its groups. -/
theorem romIsRefusedByItsProfile : Obligations.RomIsRefusedByItsProfile := by
  intro p es r
  refine ⟨?_, fun hfew => ?_⟩
  · rw [hsSeqOfEntries?_eq_some, romOfEntries?_eq_some, romMeetsProfile_iff_exists_table]
  · have hrom : romOfEntries? (romEntries r) = some r := (romOfEntries?_eq_some _ r).2 rfl
    have hp : ¬ romMeetsProfile .generic r = true := by
      simpa [romMeetsProfile, arrayGroupCount, arrayModes] using hfew
    rw [hsSeqOfEntries?, hrom, Option.filter_some, if_neg hp]

end Sys2Proof.Machine
end

section
/-! The order of the mode groups in a ROM made from a complete mode table (R155, R156, R159). -/

namespace Sys2Proof.Machine

/-- The group at place `i` describes the mode with as many groups behind it (R159). -/
theorem modeOfGroup?_eq_some {r : Rom} {i n : Nat} (h : i + n + 1 = r.groups.length) : modeOfGroup? r i = some n := by
  rw [modeOfGroup?, if_pos (by omega)]
  congr 1
  omega

/-- Each array mode stands at one place of a complete Generic table (R155). -/
theorem exists_unique_place_of_tableComplete {arrays : List (ArrayMode × ModeGroup)} {domain : List ModeGroup}
    (h : tableComplete (.generic arrays domain) = true) (m : ArrayMode) :
    ∃ (i : Nat) (g : ModeGroup), arrays[i]? = some (m, g) ∧ ∀ (j : Nat) (g' : ModeGroup), arrays[j]? = some (m, g') → j = i := by
  have hperm := (tableComplete_generic arrays domain).1 h
  have hm : m ∈ arrays.map Prod.fst := hperm.mem_iff.2 (by cases m <;> decide)
  have hnodup : (arrays.map Prod.fst).Nodup := hperm.nodup_iff.2 (by decide)
  obtain ⟨⟨m', g⟩, hmem, rfl⟩ := List.mem_map.1 hm
  obtain ⟨i, hi⟩ := List.mem_iff_getElem?.1 hmem
  refine ⟨i, g, hi, fun j g' hj => ?_⟩
  have hji : (arrays.map Prod.fst)[j]? = (arrays.map Prod.fst)[i]? := by simp [hi, hj]
  obtain ⟨hlt, -⟩ := List.getElem?_eq_some_iff.1 hj
  exact (List.getElem?_inj (by simpa using hlt) hnodup).1 hji

/-- Settles O58: counted from the end, the place in the transmission is the mode's number, and a complete Generic table puts four
array modes, each at one place, before the domain-specific ones. -/
theorem modeGroupsStandInTheirOrder : Obligations.ModeGroupsStandInTheirOrder := by
  intro r t hg hc
  cases t with
  | ev3Compatible byNumber =>
    intro n g hn
    obtain ⟨hlt, -⟩ := List.getElem?_eq_some_iff.1 hn
    have hplace : byNumber.length - 1 - n + n + 1 = byNumber.length := by omega
    refine ⟨byNumber.length - 1 - n, ?_, modeOfGroup?_eq_some ?_, hplace⟩
    · rw [hg, tableGroups, List.getElem?_reverse (by omega), ← hn]
      congr 1
      omega
    · rwa [hg, tableGroups, List.length_reverse]
  | generic arrays domain =>
    have hlen := length_arrays_of_tableComplete hc
    have hown := ownGroups_of_tableComplete hg hc
    refine ⟨arrayGroups_of_tableComplete hg hc, hown, hlen, fun m => ?_, fun i => ?_⟩
    · obtain ⟨i, g, hi, hunique⟩ := exists_unique_place_of_tableComplete hc m
      obtain ⟨hlt, -⟩ := List.getElem?_eq_some_iff.1 hi
      refine ⟨i, g, hi, ?_, modeOfGroup?_eq_some ?_, hunique⟩
      · rw [hg, tableGroups, List.getElem?_append_left (by simpa using hlt), List.getElem?_map, hi, Option.map_some]
      · rw [hg, tableGroups, List.length_append, List.length_map]
        omega
    · rw [← hown, ownGroups, List.getElem?_drop, Nat.add_comm]
      rfl

end Sys2Proof.Machine
end

section
/-! One event or one row of a handshake at a time: what `connect` starts, how a delay counts down and ends, the write of a ROM row,
the poll of the ACK wait, the two ends of a handshake (R171 to R192). -/

namespace Sys2Proof.Machine

/-! ### The start, and the count-down of a delay -/

theorem exec_ms (s : State) : exec .ms s = .next (millisecond s) := exec_event .ms s

theorem exec_connect (s : State) : exec .connect s = .next (s.perform .connect) := exec_event .connect s

/-- Settles O22: the two cases of `connect`, the start of a handshake written out. -/
theorem connectStartsAHandshake : Obligations.ConnectStartsAHandshake := by
  intro s
  rw [exec_connect]
  obtain ⟨hlink, h⟩ | ⟨hlink, h⟩ := perform_connect_cases s <;> rw [h]
  · exact ⟨fun hd => absurd hd hlink, fun _ => rfl⟩
  · exact ⟨fun _ => rfl, fun hd => absurd hlink hd⟩

theorem millisecond_idle {s : State} (h : s.hsStep = .idle) : millisecond s = s := if_pos h

/-- Settles O23: a millisecond at rest and one that counts down. -/
theorem millisecondCountsADelayDown : Obligations.MillisecondCountsADelayDown := by
  intro s
  rw [exec_ms]
  exact ⟨fun hidle => congrArg _ (millisecond_idle hidle), fun hidle ht => congrArg _ (millisecond_count s hidle ht)⟩

/-! ### The last millisecond of a delay, by sequencer step -/

/-- The first pulse ends in the opening of the line (R176). -/
theorem millisecond_pulse1_end {s : State} (h : s.hsStep = .pulse1) (ht : s.hsTimer = 1) :
    millisecond s = endPulse1 { s with hsTimer := 0 } := by
  rw [millisecond_exit s (by simp [h]) ht]
  simp only [exitStep, h]

/-- A gap ends in the send step (R181). -/
theorem millisecond_gap_end {s : State} (h : s.hsStep = .gap) (ht : s.hsTimer = 1) :
    millisecond s = sendStep { s with hsTimer := 0 } := by
  rw [millisecond_exit s (by simp [h]) ht]
  simp only [exitStep, h]

/-- A delay of the ACK wait ends in a poll (R186). -/
theorem millisecond_ackWait_end {s : State} (h : s.hsStep = .ackWait) (ht : s.hsTimer = 1) :
    millisecond s = poll { s with hsTimer := 0 } := by
  rw [millisecond_exit s (by simp [h]) ht]
  simp only [exitStep, h]

/-- The second pulse ends in `Connected` (R191, R192). -/
theorem millisecond_pulse2_end {s : State} (h : s.hsStep = .pulse2) (ht : s.hsTimer = 1) :
    millisecond s = endPulse2 { s with hsTimer := 0 } := by
  rw [millisecond_exit s (by simp [h]) ht]
  simp only [exitStep, h]

/-! ### The send step and the rows of the ROM -/

/-- The send step is the execution of the row at the ROM pointer (R178). -/
theorem exec_romLine {s : State} {l : RomLine} (h : s.romLine? = some l) :
    exec l.instr { s with hsStep := .send } = .next (sendStep s) := by
  obtain ⟨hh, p, hrow, -⟩ := romLine_form s.cfg.rom s.romPtr l h
  simp only [sendStep, h, hrow, exec_romInstr]

/-- At the ROM pointer and in the send step, a row of the ROM is one write of its bytes (R178). -/
theorem exec_romInstr_atPointer {s : State} {slot : RomSlot} {h : Byte} {p : List Byte} {gap : Nat} (hst : s.hsStep = .send)
    (hl : s.romLine? = some ⟨slot, romInstr slot h p, gap⟩) :
    exec (romInstr slot h p) s = .next (sendEntry s (encode (romInstr slot h p)) gap) := by
  rw [exec_romInstr, sendRow, hl]
  simp only [hst, and_self, if_true]

/-- A slot holds its bare byte, or the frame of header and payload (R152, R157). -/
theorem encode_romInstr (slot : RomSlot) (h : Byte) (p : List Byte) :
    encode (romInstr slot h p)
      = (match slot with | .sync => [0x00] | .ack => [0x04] | _ => [h] ++ p ++ [Machine.checksum ([h] ++ p)]) := by
  cases slot <;> rfl

/-- In its slot a row of the ROM decodes from its own bytes (R152, R157). -/
theorem decodeRom_encode_romInstr (slot : RomSlot) (h : Byte) (p : List Byte) (hp : isFrameSlot slot = true → p ≠ []) :
    decodeRom slot (encode (romInstr slot h p)) = .ok (romInstr slot h p) [] := by
  by_cases hs : isFrameSlot slot = true
  · rw [decodeRom_frameSlot slot _ hs, encode_romInstr_frame slot h p hs, decodeRomFrame_buildFrame slot h p (hp hs)]
  · cases slot with
    | sync | ack => rfl
    | _ => exact absurd rfl hs

/-- Settles O24: the exit of the first pulse is the send step, and the ROM's line 0 is that of SYNC. -/
theorem firstPulseEndsInSync : Obligations.FirstPulseEndsInSync := by
  intro s hst ht hptr
  have hl : s.romLine? = some ⟨.sync, .sync, gapMs s.cfg.rom.syncGap⟩ := by rw [State.romLine?, hptr]; rfl
  rw [exec_ms, millisecond_pulse1_end hst ht]
  exact (exec_romLine (s := { s with
    hsTimer := 0, line := .uart, baud := initBaud s.profile, rxFifo := [] }) hl).symm

/-- Settles O25: the exit of a gap is the send step, and a line's row decodes from its bytes. -/
theorem gapEndRunsTheRomEntry : Obligations.GapEndRunsTheRomEntry := by
  intro s l hst ht hl
  constructor
  · rw [exec_ms, millisecond_gap_end hst ht]
    exact (exec_romLine (s := { s with hsTimer := 0 }) hl).symm
  · obtain ⟨h, p, hrow, hp⟩ := romLine_form s.cfg.rom s.romPtr l hl
    rw [hrow]
    exact decodeRom_encode_romInstr l.slot h p hp

/-- Settles O26: the row is one write, and a write of an entry ends in one of three ways. -/
theorem romRowIsOneWrite : Obligations.RomRowIsOneWrite := by
  intro s slot h p gap n bytes hst hl hbytes hn
  obtain rfl : encode (romInstr slot h p) = bytes := (encode_romInstr slot h p).trans hbytes.symm
  rw [exec_romInstr_atPointer hst hl]
  obtain ⟨m, hm, hle, hcases⟩ := sendEntry_cases s (encode (romInstr slot h p)) gap
  obtain rfl : m = n := hm.trans hn.symm
  refine ⟨hle, ?_⟩
  obtain ⟨hshort, he⟩ | ⟨hwhole, hlast, he⟩ | ⟨hwhole, hmore, he⟩ := hcases <;> rw [he]
  · exact ⟨fun hw => absurd hw hshort.ne, fun hw => absurd hw hshort.ne, fun _ => rfl⟩
  · exact ⟨fun _ hlt => absurd hlast hlt.ne, fun _ _ => rfl, fun hs => absurd hwhole hs.ne⟩
  · exact ⟨fun _ _ => rfl, fun _ hl => absurd hl hmore, fun hs => absurd hwhole hs.ne⟩

/-! ### A poll of the ACK wait, and the end of the second pulse -/

/-- Before its last poll the ACK wait goes on (R186). -/
theorem pollMissed_of_ne {s : State} (h : s.hsPolls ≠ 400) : pollMissed s = { s with hsTimer := 5 } := if_neg h

/-- At its last poll the ACK wait times out (R188). -/
theorem pollMissed_of_last {s : State} (h : s.hsPolls = 400) :
    pollMissed s = { s with
      link := .disconnected, connectOk := false, hsStep := .idle
      diag := s.diag ++ [.handshakeTimeout, .connectDone false] } := by
  have htimeout : pollMissed s = handshakeTimeout s := if_pos h
  rw [htimeout, handshakeTimeout, State.failHandshake]
  simp [State.emit]

theorem acknowledged_generic {s : State} (h : s.profile = .generic) :
    acknowledged s = { s with line := .gpioLow, hsTimer := 10, hsStep := .pulse2 } :=
  if_pos (by rw [h]; rfl)

theorem acknowledged_ev3Compatible {s : State} (h : s.profile = .ev3Compatible) :
    acknowledged s = { s with
      link := .connected, connectOk := true, hsStep := .idle, diag := s.diag ++ [.connectDone true] } :=
  if_neg (by rw [h]; decide)

theorem exec_ackEcho {s : State} (h : s.hsStep = .ackWait) : exec .ackEcho s = .next (acknowledged s) :=
  congrArg _ (if_pos h)

theorem exec_ackwaitDiscard {s : State} (h : s.hsStep = .ackWait) (b : Byte) :
    exec (.ackwaitDiscard b) s = .next (pollMissed (s.emit (.ackWaitDiscard b))) :=
  congrArg _ (if_pos h)

/-- A byte polled is executed as the row it is in the ACK wait (R186, R187). -/
theorem exec_polled {s : State} (h : s.hsStep = .ackWait) (b : Byte) :
    exec (if b = 0x04 then .ackEcho else .ackwaitDiscard b) s
      = .next (if b = ackByte then acknowledged s else pollMissed (s.emit (.ackWaitDiscard b))) := by
  unfold ackByte
  split
  · exact exec_ackEcho h
  · exact exec_ackwaitDiscard h b

/-- Settles O28: the exit of the ACK wait is a poll, which misses on an empty FIFO and otherwise is the row of the byte popped. -/
theorem pollReadsAtMostOneByte : Obligations.PollReadsAtMostOneByte := by
  intro s hst ht
  rw [exec_ms, millisecond_ackWait_end hst ht, poll_eq]
  dsimp only
  refine ⟨fun hf hmore => ?_, fun hf hlast => ?_, fun b rest hf => ?_⟩ <;> rw [hf]
  · exact congrArg _ (pollMissed_of_ne hmore)
  · rw [hlast]
    exact congrArg _ (pollMissed_of_last rfl)
  · exact (exec_polled (s := { s with hsTimer := 0, hsPolls := s.hsPolls + 1, rxFifo := rest }) hst b).symm

/-- Settles O29: the acknowledgement, profile by profile. -/
theorem ackEchoSwitchesBaudOrConnects : Obligations.AckEchoSwitchesBaudOrConnects := by
  intro s hst
  rw [exec_ackEcho hst]
  exact ⟨fun hp => congrArg _ (acknowledged_generic hp), fun hp => congrArg _ (acknowledged_ev3Compatible hp)⟩

/-- Settles O30: the byte is reported, then the poll has missed. -/
theorem otherBytesAreDiscardedInTheAckWait : Obligations.OtherBytesAreDiscardedInTheAckWait := by
  intro s b hst _
  rw [exec_ackwaitDiscard hst b]
  refine ⟨fun hmore => congrArg _ (pollMissed_of_ne hmore), fun hlast => ?_⟩
  rw [pollMissed_of_last (s := s.emit _) hlast, State.emit_diag, List.append_assoc]
  rfl

/-- Settles O31: the exit of the second pulse, written out. -/
theorem secondPulseEndsConnected : Obligations.SecondPulseEndsConnected := by
  intro s hst ht
  rw [exec_ms, millisecond_pulse2_end hst ht]
  rfl

end Sys2Proof.Machine
end

section
/-! What the runs of a handshake share: a millisecond as the first step of a run, a whole delay, and the two ways into the send
step. -/

namespace Sys2Proof.Machine

/-! ### Runs of milliseconds -/

/-- The first step of a run whose next event is a millisecond. -/
theorem run_ms {s : State} {rest : List Event} (h : s.inputs = .ms :: rest) (n : Nat) :
    Sys2Proof.core.run (n + 1) s = Sys2Proof.core.run n (millisecond { s with inputs := rest }) := by
  have hstep : step s = .next (millisecond { s with inputs := rest }) := (step_of_inputs_cons h).trans (exec_ms _)
  simp only [Host.Core.run, Host.Check.core_step]
  rw [hstep]

theorem millisecond_add_two {s : State} {d : Nat} (hidle : s.hsStep ≠ .idle) (ht : s.hsTimer = d + 1 + 1) :
    millisecond s = { s with hsTimer := d + 1 } := by
  rw [millisecond_count s hidle (by omega), ht]
  rfl

/-- A run over a delay arrives at its last millisecond with nothing else changed (R171). -/
theorem run_delay (m : Nat) : ∀ (d : Nat) (s : State), s.hsStep ≠ .idle → s.hsTimer = d + 1 →
    s.inputs = List.replicate (m + (d + 1)) .ms →
    Sys2Proof.core.run (m + (d + 1)) s
      = Sys2Proof.core.run m (millisecond { s with hsTimer := 1, inputs := List.replicate m .ms })
  | 0, s, _, ht, hi => by
    rw [← Nat.add_assoc, run_ms (hi.trans List.replicate_succ), ht]
  | d + 1, s, hidle, ht, hi => by
    have hcount := millisecond_add_two (s := { s with inputs := List.replicate (m + (d + 1)) .ms }) hidle ht
    rw [← Nat.add_assoc]
    exact (run_ms (hi.trans List.replicate_succ) _).trans
      ((congrArg _ hcount).trans (run_delay m d _ hidle rfl rfl))

/-! ### The entries to the send step -/

/-- The end of the first pulse enters the send step (R176, R177). -/
theorem sendReady_of_pulse1 {s : State} (h : s.inv = true) (hst : s.hsStep = .pulse1) :
    State.SendReady { s with hsTimer := 0, line := .uart, baud := initBaud s.profile, rxFifo := [] } := by
  obtain ⟨-, hph, hptr, hpolls⟩ := State.Bounded.of_inv h
  obtain ⟨hlink, -, -, -, hzero, hnone⟩ := (sequencerOk_pulse1 hst).1 (sequencerOk_of_inv h)
  have hlt : s.romPtr < s.romK := by
    rw [hzero]
    exact Nat.lt_of_lt_of_le (by decide) (six_le_romLength _)
  exact ⟨⟨Nat.zero_le _, hph, hptr, hpolls⟩, hlink, rfl, rfl, hlt, hnone⟩

/-- The end of a gap enters the send step (R181). -/
theorem sendReady_of_gap {s : State} (h : s.inv = true) (hst : s.hsStep = .gap) :
    State.SendReady { s with hsTimer := 0 } := by
  obtain ⟨hfifo, hph, hptr, hpolls⟩ := State.Bounded.of_inv h
  obtain ⟨hlink, hline, hbaud, -, -, -, hlt, hnone⟩ := (sequencerOk_gap hst).1 (sequencerOk_of_inv h)
  exact ⟨⟨hfifo, hph, hptr, hpolls⟩, hlink, hline, hbaud, hlt, hnone⟩

end Sys2Proof.Machine
end

section
/-! A handshake ends by itself (R193, R194): `State.msLeft` bounds the time it still takes, and every millisecond lowers that
bound. At the start the bound is the first pulse, 18 ms for each entry of the ROM, the polls of the ACK wait and the second pulse. -/

namespace Sys2Proof.Machine

/-! ### The time a handshake has left at most -/

/-- What the ACK wait has left behind poll `polls` and what follows it, in milliseconds (R186, R190). -/
def pollsLeftMs (polls : Nat) : Nat := ackPollMs * (ackPolls - polls) + pulse2Ms

/-- What follows the send step of entry `ptr` at most: a gap for each entry behind it, the ACK wait, the second pulse (R158, R185). -/
def sendLeftMs (k ptr : Nat) : Nat := 18 * (k - 1 - ptr) + pollsLeftMs 0

/-- The milliseconds after which a handshake has ended, at the latest. -/
def State.msLeft (s : State) : Nat :=
  match s.hsStep with
  | .idle | .send => 0
  | .pulse1 | .gap => s.hsTimer + sendLeftMs s.romK s.romPtr
  | .ackWait => s.hsTimer + pollsLeftMs (s.hsPolls + 1)
  | .pulse2 => s.hsTimer

theorem msLeft_idle {s : State} (h : s.hsStep = .idle) : s.msLeft = 0 := by simp only [State.msLeft, h]

theorem msLeft_pulse1 {s : State} (h : s.hsStep = .pulse1) : s.msLeft = s.hsTimer + sendLeftMs s.romK s.romPtr := by
  simp only [State.msLeft, h]

theorem msLeft_gap {s : State} (h : s.hsStep = .gap) : s.msLeft = s.hsTimer + sendLeftMs s.romK s.romPtr := by
  simp only [State.msLeft, h]

theorem msLeft_ackWait {s : State} (h : s.hsStep = .ackWait) : s.msLeft = s.hsTimer + pollsLeftMs (s.hsPolls + 1) := by
  simp only [State.msLeft, h]

theorem msLeft_pulse2 {s : State} (h : s.hsStep = .pulse2) : s.msLeft = s.hsTimer := by simp only [State.msLeft, h]

/-- A poll takes 5 ms off what the ACK wait has left (R186). -/
theorem pollsLeftMs_succ {polls : Nat} (h : polls < ackPolls) : 5 + pollsLeftMs (polls + 1) = pollsLeftMs polls := by
  simp only [pollsLeftMs, ackPollMs, ackPolls, pulse2Ms] at *
  omega

/-- An entry that is not the last takes 18 ms off what the send steps have left (R158). -/
theorem sendLeftMs_succ {k ptr : Nat} (h : ptr + 1 < k) : 18 + sendLeftMs k (ptr + 1) = sendLeftMs k ptr := by
  simp only [sendLeftMs]
  omega

/-- A count-down uses one millisecond up (R171). -/
theorem msLeft_count_lt {s : State} (h : s.inv = true) (hidle : s.hsStep ≠ .idle) (ht : 1 < s.hsTimer) :
    State.msLeft { s with hsTimer := s.hsTimer - 1 } < s.msLeft := by
  have hlt : s.hsTimer - 1 < s.hsTimer := Nat.sub_one_lt_of_lt ht
  cases hst : s.hsStep with
  | idle => exact absurd hst hidle
  | send => exact absurd (sequencerOk_of_inv h) (not_sequencerOk_send hst)
  | pulse1 => rw [msLeft_pulse1 hst, msLeft_pulse1 rfl]; exact Nat.add_lt_add_right hlt _
  | gap => rw [msLeft_gap hst, msLeft_gap rfl]; exact Nat.add_lt_add_right hlt _
  | ackWait => rw [msLeft_ackWait hst, msLeft_ackWait rfl]; exact Nat.add_lt_add_right hlt _
  | pulse2 => rw [msLeft_pulse2 hst, msLeft_pulse2 rfl]; exact hlt

/-- A send step fails, or leaves a gap or the ACK wait (R178 to R180, R185). -/
theorem msLeft_sendStep_le {s : State} (h : s.SendReady) : (sendStep s).msLeft ≤ sendLeftMs s.romK s.romPtr := by
  obtain ⟨l, hl⟩ := exists_romLine s.cfg.rom s.romPtr h.ptr
  rw [sendStep_eq s l hl]
  obtain ⟨n, -, -, ⟨-, he⟩ | ⟨-, -, he⟩ | ⟨-, hmore, he⟩⟩ :=
    sendEntry_cases { s with hsStep := .send } (encode l.instr) l.gap <;> rw [he]
  · rw [msLeft_idle rfl]
    exact Nat.zero_le _
  · have hwait : 5 + pollsLeftMs 1 = pollsLeftMs 0 := pollsLeftMs_succ (by decide)
    rw [msLeft_ackWait rfl, hwait]
    exact Nat.le_add_left _ _
  · have hgap : l.gap ≤ 18 := (romLine_gap s.cfg.rom s.romPtr l hl hmore).2
    rw [msLeft_gap rfl, ← sendLeftMs_succ (lt_of_le_of_ne h.ptr hmore)]
    exact Nat.add_le_add_right hgap _

/-- A missed poll ends the handshake or leaves the polls behind it (R186, R188). -/
theorem msLeft_pollMissed_le {s : State} (h : s.PollCounted) : (pollMissed s).msLeft ≤ pollsLeftMs s.hsPolls := by
  by_cases hlast : s.hsPolls = 400
  · rw [pollMissed_of_last hlast, msLeft_idle rfl]
    exact Nat.zero_le _
  · rw [pollMissed_of_ne hlast, msLeft_ackWait (s := { s with hsTimer := 5 }) h.step,
      pollsLeftMs_succ (lt_of_le_of_ne h.bounded.polls hlast)]

/-- An acknowledgement leaves a second pulse or nothing (R189, R190). -/
theorem msLeft_acknowledged_le (s : State) : (acknowledged s).msLeft ≤ pulse2Ms := by
  cases hp : s.profile with
  | generic => rw [acknowledged_generic hp, msLeft_pulse2 rfl]; exact le_rfl
  | ev3Compatible => rw [acknowledged_ev3Compatible hp, msLeft_idle rfl]; exact Nat.zero_le _

/-- A poll leaves at most the polls behind it (R186). -/
theorem msLeft_poll_le {s : State} (h : s.inv = true) (hst : s.hsStep = .ackWait) :
    (poll { s with hsTimer := 0 }).msLeft ≤ pollsLeftMs (s.hsPolls + 1) := by
  rw [poll_eq]
  dsimp only
  cases hf : s.rxFifo with
  | nil => exact msLeft_pollMissed_le (pollCounted_of_ackWait h hst (Nat.zero_le _))
  | cons b rest =>
    have hc := pollCounted_of_ackWait h hst (fifo := rest) (by simp [hf])
    dsimp only
    split
    · exact (msLeft_acknowledged_le _).trans (Nat.le_add_left _ _)
    · exact msLeft_pollMissed_le (hc.emit _)

/-- The last millisecond of a delay is used up too. -/
theorem msLeft_exit_lt {s : State} (h : s.inv = true) (hidle : s.hsStep ≠ .idle) (ht : s.hsTimer = 1) :
    (millisecond s).msLeft < s.msLeft := by
  cases hst : s.hsStep with
  | idle => exact absurd hst hidle
  | send => exact absurd (sequencerOk_of_inv h) (not_sequencerOk_send hst)
  | pulse1 =>
    have hle := msLeft_sendStep_le (sendReady_of_pulse1 h hst)
    rw [millisecond_pulse1_end hst ht, msLeft_pulse1 hst, ht, Nat.one_add]
    exact Nat.lt_succ_of_le hle
  | gap =>
    have hle := msLeft_sendStep_le (sendReady_of_gap h hst)
    rw [millisecond_gap_end hst ht, msLeft_gap hst, ht, Nat.one_add]
    exact Nat.lt_succ_of_le hle
  | ackWait =>
    rw [millisecond_ackWait_end hst ht, msLeft_ackWait hst, ht, Nat.one_add]
    exact Nat.lt_succ_of_le (msLeft_poll_le h hst)
  | pulse2 =>
    rw [millisecond_pulse2_end hst ht, msLeft_pulse2 hst, ht, msLeft_idle rfl]
    exact Nat.one_pos

/-- A step of a handshake has a delay that has not run out (R36). -/
theorem hsTimer_pos {s : State} (h : s.inv = true) (hidle : s.hsStep ≠ .idle) : 1 ≤ s.hsTimer := by
  have hs := sequencerOk_of_inv h
  cases hst : s.hsStep with
  | idle => exact absurd hst hidle
  | send => exact absurd hs (not_sequencerOk_send hst)
  | pulse1 =>
    obtain ⟨-, -, hpos, -⟩ := (sequencerOk_pulse1 hst).1 hs
    exact hpos
  | gap =>
    obtain ⟨-, -, -, hpos, -⟩ := (sequencerOk_gap hst).1 hs
    exact hpos
  | ackWait =>
    obtain ⟨-, -, -, hpos, -⟩ := (sequencerOk_ackWait hst).1 hs
    exact hpos
  | pulse2 =>
    obtain ⟨-, -, -, hpos, -⟩ := (sequencerOk_pulse2 hst).1 hs
    exact hpos

/-- Every millisecond of a handshake uses time up (R171). -/
theorem msLeft_millisecond_lt {s : State} (h : s.inv = true) (hidle : s.hsStep ≠ .idle) :
    (millisecond s).msLeft < s.msLeft := by
  obtain hlast | hmore := (hsTimer_pos h hidle).eq_or_lt
  · exact msLeft_exit_lt h hidle hlast.symm
  · rw [millisecond_count s hidle hmore]
    exact msLeft_count_lt h hidle hmore

/-- At rest or in a handshake, a millisecond leaves at most the rest of the time. -/
theorem msLeft_millisecond_le {s : State} (h : s.inv = true) {n : Nat} (hleft : s.msLeft ≤ n + 1) :
    (millisecond s).msLeft ≤ n := by
  by_cases hidle : s.hsStep = .idle
  · rw [millisecond_idle hidle, msLeft_idle hidle]
    exact Nat.zero_le n
  · exact Nat.le_of_lt_succ ((msLeft_millisecond_lt h hidle).trans_le hleft)

theorem pollsLeftMs_le (polls : Nat) : pollsLeftMs polls ≤ 2000 + 10 := by
  simp only [pollsLeftMs, ackPollMs, ackPolls, pulse2Ms]
  omega

theorem sendLeftMs_le (k ptr : Nat) : sendLeftMs k ptr ≤ 18 * (k - 1) + (2000 + 10) := by
  have := pollsLeftMs_le 0
  simp only [sendLeftMs]
  omega

/-- The bound of R194 on the time a handshake has left. -/
theorem msLeft_le {s : State} (h : s.inv = true) : s.msLeft ≤ 500 + 18 * s.romK + 2000 + 10 := by
  have hs := sequencerOk_of_inv h
  have hk : 6 ≤ s.romK := six_le_romLength _
  have hsend := sendLeftMs_le s.romK s.romPtr
  have hpolls := pollsLeftMs_le (s.hsPolls + 1)
  cases hst : s.hsStep with
  | idle => rw [msLeft_idle hst]; exact Nat.zero_le _
  | send => exact absurd hs (not_sequencerOk_send hst)
  | pulse1 =>
    obtain ⟨-, -, -, hmax, -⟩ := (sequencerOk_pulse1 hst).1 hs
    have hpulse : pulse1Ms s.profile ≤ 500 := by cases s.profile <;> decide
    rw [msLeft_pulse1 hst]
    omega
  | gap =>
    obtain ⟨-, -, -, -, hmax, -⟩ := (sequencerOk_gap hst).1 hs
    rw [msLeft_gap hst]
    omega
  | ackWait =>
    obtain ⟨-, -, -, -, hmax, -⟩ := (sequencerOk_ackWait hst).1 hs
    have hpoll : ackPollMs = 5 := rfl
    rw [msLeft_ackWait hst]
    omega
  | pulse2 =>
    obtain ⟨-, -, -, -, hmax, -⟩ := (sequencerOk_pulse2 hst).1 hs
    have hpulse : pulse2Ms = 10 := rfl
    rw [msLeft_pulse2 hst]
    omega

/-! ### A run of milliseconds -/

theorem millisecond_inputs (s : State) : (millisecond s).inputs = s.inputs := congrArg (·.inputs) (millisecond_frame s)

/-- When as many milliseconds have passed as a handshake has left at most, the sequencer rests. -/
theorem run_of_msLeft_le : ∀ (n : Nat) (s : State), s.inv = true → s.inputs = List.replicate n .ms → s.msLeft ≤ n →
    ∃ t : State, Sys2Proof.core.run n s = .next t ∧ t.inv = true ∧ t.hsStep = .idle
  | 0, s, h, _, hleft => by
    refine ⟨s, rfl, h, ?_⟩
    by_contra hidle
    exact absurd (msLeft_millisecond_lt h hidle) (by omega)
  | n + 1, s, h, hi, hleft => by
    have h' : State.inv { s with inputs := List.replicate n .ms } = true := h
    rw [run_ms (hi.trans List.replicate_succ)]
    exact run_of_msLeft_le n _ (millisecond_inv h') (millisecond_inputs _) (msLeft_millisecond_le h' hleft)

/-- Settles O33: the run over the bound's milliseconds ends at rest, and the sequencer rests outside a handshake only. -/
theorem everyHandshakeEnds : Obligations.EveryHandshakeEnds := by
  intro s h _
  obtain ⟨t, hrun, ht, hidle⟩ := run_of_msLeft_le (500 + 18 * s.romK + 2000 + 10)
    { s with inputs := List.replicate (500 + 18 * s.romK + 2000 + 10) .ms } h rfl (msLeft_le h)
  obtain ⟨hlink, -⟩ := (sequencerOk_idle hidle).1 (sequencerOk_of_inv ht)
  exact ⟨_, t, le_rfl, hrun, hlink, hidle⟩

end Sys2Proof.Machine
end

section
/-! A handshake whose writes are all taken whole puts the whole ROM on the wire, SYNC to ACK, in the rest of the first pulse and the
sum of the gaps (R183, R184). -/

namespace Sys2Proof.Machine

/-! ### The entries in terms of the lines they are made from (R150) -/

/-- The bytes of lines of the ROM, in order. -/
def lineBytes (ls : List RomLine) : List Byte := ls.flatMap (fun l => encode l.instr)

/-- The sum of the gaps behind lines of the ROM, in milliseconds. -/
def gapsMs (ls : List RomLine) : Nat := (ls.map (·.gap)).sum

/-- The answers of a transport that takes lines of the ROM whole (R64). -/
def wholeCounts (ls : List RomLine) : List Nat := ls.map (fun l => (encode l.instr).length)

theorem lineBytes_cons (l : RomLine) (ls : List RomLine) : lineBytes (l :: ls) = encode l.instr ++ lineBytes ls :=
  List.flatMap_cons

theorem gapsMs_cons (l : RomLine) (ls : List RomLine) : gapsMs (l :: ls) = gapsMs ls + l.gap := Nat.add_comm ..

theorem romEntries_bytes (r : Rom) : (romEntries r).flatMap (fun e => e.1) = lineBytes (romProgram r) := by
  rw [romEntries, List.flatMap_map, lineBytes]

theorem romEntries_gaps (r : Rom) : ((romEntries r).map (fun e => e.2)).sum = gapsMs (romProgram r) := by
  rw [romEntries, List.map_map, gapsMs]
  rfl

theorem romEntries_lengths (r : Rom) : (romEntries r).map (fun e => e.1.length) = wholeCounts (romProgram r) := by
  rw [romEntries, List.map_map, wholeCounts]
  rfl

/-- Behind the last entry there is no gap (R152). -/
theorem romLine_gap_last {r : Rom} {k : Nat} {l : RomLine} (h : (romProgram r)[k]? = some l) (hk : k + 1 = romLength r) :
    l.gap = 0 := by
  have hlast : (romProgram r).getLast? = some ⟨.ack, .ack, 0⟩ := List.getLast?_concat
  rw [List.getLast?_eq_getElem?, show (romProgram r).length - 1 = k from Nat.sub_eq_of_eq_add hk.symm, h] at hlast
  injection hlast with hl
  rw [hl]

/-- The lines still to be sent, read at the ROM pointer (R66). -/
theorem romLine?_of_drop {s : State} {l : RomLine} {ls : List RomLine} (h : (romProgram s.cfg.rom).drop s.romPtr = l :: ls) :
    s.romLine? = some l := by
  rw [State.romLine?, ← List.head?_drop, h]
  rfl

/-- Only the last line has none behind it. -/
theorem romPtr_add_length_of_drop {s : State} {l : RomLine} {ls : List RomLine}
    (h : (romProgram s.cfg.rom).drop s.romPtr = l :: ls) : s.romPtr + 1 + ls.length = s.romK := by
  have hlen := congrArg List.length h
  simp only [List.length_drop, List.length_cons] at hlen
  simp only [State.romK, romLength]
  omega

/-! ### A write that is taken whole -/

/-- The next answer given to the transport is its count (R64). -/
theorem State.txCount_of_answer {s : State} {n : Nat} {more : List Nat} (h : s.txAnswers = n :: more) : s.txCount n = n := by
  simp [State.txCount, h]

/-- A whole write adds its bytes to the transmit stream (R65). -/
theorem State.wire_wrote (s : State) (bytes : List Byte) : (s.wrote bytes bytes.length).wire = s.wire ++ bytes := by
  simp [State.wire]

/-- The send step of the last line, taken whole, enters the ACK wait (R185). -/
theorem sendStep_whole_last {s : State} {l : RomLine} (hl : s.romLine? = some l)
    (hw : s.txCount (encode l.instr).length = (encode l.instr).length) (hlast : s.romPtr + 1 = s.romK) :
    sendStep s = { s.wrote (encode l.instr) (encode l.instr).length with
      romPtr := s.romPtr + 1, hsPolls := 0, hsTimer := 5, hsStep := .ackWait } := by
  rw [sendStep_eq s l hl]
  obtain ⟨n, hn, -, ⟨hshort, -⟩ | ⟨hwhole, -, he⟩ | ⟨-, hmore, -⟩⟩ :=
    sendEntry_cases { s with hsStep := .send } (encode l.instr) l.gap
  · exact absurd (hn.trans hw) hshort.ne
  · rw [he, hwhole]
    rfl
  · exact absurd hlast hmore

/-- The send step of any other line, taken whole, enters its gap (R179). -/
theorem sendStep_whole_more {s : State} {l : RomLine} (hl : s.romLine? = some l)
    (hw : s.txCount (encode l.instr).length = (encode l.instr).length) (hmore : s.romPtr + 1 ≠ s.romK) :
    sendStep s = { s.wrote (encode l.instr) (encode l.instr).length with
      romPtr := s.romPtr + 1, hsTimer := l.gap, hsStep := .gap } := by
  rw [sendStep_eq s l hl]
  obtain ⟨n, hn, -, ⟨hshort, -⟩ | ⟨-, hlast, -⟩ | ⟨hwhole, -, he⟩⟩ :=
    sendEntry_cases { s with hsStep := .send } (encode l.instr) l.gap
  · exact absurd (hn.trans hw) hshort.ne
  · exact absurd hlast hmore
  · rw [he, hwhole]
    rfl

/-! ### The run from a send step on -/

/-- What holds at a send step says nothing of the events to come. -/
theorem State.SendReady.withInputs {s : State} (h : s.SendReady) (r : List Event) : State.SendReady { s with inputs := r } :=
  { h with bounded := { h.bounded with } }

/-- A run over a gap arrives at the send step behind it (R181). -/
theorem run_gap {s : State} {d m : Nat} (hst : s.hsStep = .gap) (ht : s.hsTimer = d + 1)
    (hi : s.inputs = List.replicate (m + (d + 1)) .ms) :
    Sys2Proof.core.run (m + (d + 1)) s
      = Sys2Proof.core.run m (sendStep { s with hsTimer := 0, inputs := List.replicate m .ms }) :=
  (run_delay m d s (by simp [hst]) ht hi).trans (congrArg _ (millisecond_gap_end hst rfl))

/-- A run over the first pulse arrives at the send step of an opened line (R176, R177). -/
theorem run_pulse1 {s : State} {d m : Nat} (hst : s.hsStep = .pulse1) (ht : s.hsTimer = d + 1)
    (hi : s.inputs = List.replicate (m + (d + 1)) .ms) :
    Sys2Proof.core.run (m + (d + 1)) s
      = Sys2Proof.core.run m (sendStep { s with
          hsTimer := 0, line := .uart, baud := initBaud s.profile, rxFifo := [], inputs := List.replicate m .ms }) :=
  (run_delay m d s (by simp [hst]) ht hi).trans (congrArg _ (millisecond_pulse1_end hst rfl))

/-- What holds when the lines `ls` have been sent from `s` on and the ACK wait is entered, the transport's answers `more` left. -/
structure State.SentFrom (s t : State) (ls : List RomLine) (more : List Nat) : Prop where
  inv     : t.inv = true
  step    : t.hsStep = .ackWait
  polls   : t.hsPolls = 0
  timer   : t.hsTimer = 5
  inputs  : t.inputs = []
  answers : t.txAnswers = more
  cfg     : t.cfg = s.cfg
  wire    : t.wire = s.wire ++ lineBytes ls

/-- The last line, taken whole, leaves the ACK wait at once: no gap stands behind it (R152, R185). -/
theorem sentFrom_sendStep_last {s : State} {l : RomLine} {more : List Nat} (h : s.SendReady)
    (hdrop : (romProgram s.cfg.rom).drop s.romPtr = [l]) (hans : s.txAnswers = wholeCounts [l] ++ more)
    (hi : s.inputs = []) : s.SentFrom (sendStep s) [l] more := by
  have hinv := sendStep_inv h
  rw [sendStep_whole_last (romLine?_of_drop hdrop) (State.txCount_of_answer hans) (romPtr_add_length_of_drop hdrop)] at hinv ⊢
  have hwire : s.wire ++ encode l.instr = s.wire ++ lineBytes [l] := by rw [lineBytes, List.flatMap_singleton]
  exact ⟨hinv, rfl, rfl, rfl, hi, congrArg (List.drop 1) hans, rfl, (s.wire_wrote _).trans hwire⟩

/-- A line on the wire, and then the lines behind it. -/
theorem State.SentFrom.cons {s u t : State} {l : RomLine} {ls : List RomLine} {more : List Nat} (h : u.SentFrom t ls more)
    (hcfg : u.cfg = s.cfg) (hwire : u.wire = s.wire ++ encode l.instr) : s.SentFrom t (l :: ls) more where
  __ := h
  cfg := h.cfg.trans hcfg
  wire := by rw [h.wire, hwire, lineBytes_cons, List.append_assoc]

/-- From a send step on, with a transport that takes each line left whole, the lines are sent in the sum of their gaps. -/
theorem run_sendStep (more : List Nat) : ∀ (ls : List RomLine) (l : RomLine) (s : State), s.SendReady →
    (romProgram s.cfg.rom).drop s.romPtr = l :: ls →
    s.txAnswers = wholeCounts (l :: ls) ++ more →
    s.inputs = List.replicate (gapsMs (l :: ls)) .ms →
    ∃ t : State, Sys2Proof.core.run (gapsMs (l :: ls)) (sendStep s) = .next t ∧ s.SentFrom t (l :: ls) more
  | [], l, s, h, hdrop, hans, hi => by
    have hgap : gapsMs [l] = 0 := romLine_gap_last (romLine?_of_drop hdrop) (romPtr_add_length_of_drop hdrop)
    rw [hgap] at hi ⊢
    exact ⟨sendStep s, rfl, sentFrom_sendStep_last h hdrop hans hi⟩
  | l' :: ls, l, s, h, hdrop, hans, hi => by
    have hl := romLine?_of_drop hdrop
    have hlen := romPtr_add_length_of_drop hdrop
    have hmore : s.romPtr + 1 ≠ s.romK := by rw [List.length_cons] at hlen; omega
    obtain ⟨d, hd⟩ : ∃ d, l.gap = d + 1 :=
      Nat.exists_eq_succ_of_ne_zero (Nat.ne_of_gt (romLine_gap s.cfg.rom s.romPtr l hl hmore).1)
    have hinv := sendStep_inv h
    rw [gapsMs_cons, hd] at hi ⊢
    rw [sendStep_whole_more hl (State.txCount_of_answer hans) hmore] at hinv ⊢
    have hdrop' : (romProgram s.cfg.rom).drop (s.romPtr + 1) = l' :: ls := by
      rw [← List.tail_drop, hdrop, List.tail_cons]
    have hready := (sendReady_of_gap hinv rfl).withInputs (List.replicate (gapsMs (l' :: ls)) .ms)
    obtain ⟨t, hrun, hsent⟩ := run_sendStep more ls l' _ hready hdrop' (congrArg (List.drop 1) hans) rfl
    refine ⟨t, Eq.trans ?_ hrun, hsent.cons rfl (s.wire_wrote _)⟩
    exact run_gap rfl hd hi

/-- Settles O32: the rest of the first pulse, then the run from the send step of entry 0 on. -/
theorem handshakeTransmitsTheWholeRom : Obligations.HandshakeTransmitsTheWholeRom := by
  intro s more h hst hans hi
  obtain ⟨-, -, hpos, -, hzero, -⟩ := (sequencerOk_pulse1 hst).1 (sequencerOk_of_inv h)
  obtain ⟨d, hd⟩ : ∃ d, s.hsTimer = d + 1 := Nat.exists_eq_succ_of_ne_zero (Nat.ne_of_gt hpos)
  obtain ⟨l, ls, hlines⟩ : ∃ l ls, romProgram s.cfg.rom = l :: ls := ⟨_, _, rfl⟩
  rw [romEntries_lengths, hlines] at hans
  rw [romEntries_gaps, hlines, hd, Nat.add_comm] at hi
  have hready := (sendReady_of_pulse1 h hst).withInputs (List.replicate (gapsMs (l :: ls)) .ms)
  obtain ⟨t, hrun, hsent⟩ := run_sendStep more ls l _ hready (by rw [hzero, List.drop_zero, hlines]) hans rfl
  obtain ⟨hlink, hline, hbaud, -, -, hptr, -⟩ := (sequencerOk_ackWait hsent.step).1 (sequencerOk_of_inv hsent.inv)
  refine ⟨t, ?_, hsent.step, hlink, hptr, hsent.polls, hsent.timer, hline, ?_, hsent.inputs, hsent.answers, hsent.cfg, ?_⟩
  · rw [hi, List.length_replicate]
    exact (run_pulse1 hst hd hi).trans hrun
  · rw [hbaud, State.profile, hsent.cfg]
  · rw [hsent.wire, romEntries_bytes, hlines]
    rfl

end Sys2Proof.Machine
end

section
/-! What each inbound message of steady state leaves (R211 to R231): the phases of the parser, then one theorem
per message. -/

namespace Sys2Proof.Machine

/-! ### The parser's phases, each as one update of the state -/

/-- The filler 0x00 and the keep-alive 0x02 leave the state (R213). -/
theorem parseByte_filler {s : State} (hp : s.ph = .idle) {b : Byte} (hb : b = 0x00 ∨ b = 0x02) : parseByte s b = s :=
  (parseByte_idle s b hp).trans (if_pos hb)

/-- The checksum byte of a SELECT: the checksum first, then the range (R216, R313). -/
theorem parseSelCk_eq (s : State) (b : Byte) :
    parseSelCk s b = { s with
      mode := if b = s.acc ∧ s.selM.toNat ≤ 15 then BitVec.ofNat 4 s.selM.toNat else s.mode
      ph := .idle
      diag := s.diag ++
        [if b = s.acc then if s.selM.toNat ≤ 15 then .selected s.selM else .droppedSelectRange s.selM
         else .droppedSelectChecksum s.selM] } := by
  rw [parseSelCk, modeInRange, BitVec.ofNat_toNat]
  by_cases hck : b = s.acc
  · by_cases hrange : s.selM.toNat ≤ 15 <;> simp [hck, hrange, State.emit]
  · simp [hck, State.emit]

/-- The checksum byte of a WRITE-DATA: commit or drop (R224, R225), the event's arguments by arithmetic (R99). -/
theorem parseWdCk_eq (s : State) (b : Byte) :
    parseWdCk s b = { s with
      text := if b = s.acc then s.stage else s.text
      ph := .idle
      diag := s.diag ++
        [if b = s.acc then .writeData (s.sm.toNat % 8 + if s.bank then 8 else 0) (2 ^ (s.sm.toNat / 8 % 8))
         else .droppedWriteChecksum s.sm] } := by
  rw [parseWdCk, wmode_eq, declaredLength_eq]
  split <;> rfl

/-- The checksum byte of a COMBO: accepted or dropped (R229, R230). -/
theorem parseCbCk_eq (s : State) (b : Byte) :
    parseCbCk s b = { s with
      ph := .idle
      diag := s.diag ++
        [if b = s.acc then .comboAccepted (s.cb.toList.take (comboLen s.profile)) else .droppedComboChecksum] } := by
  rw [parseCbCk]
  split <;> rfl

/-- Bytes stored from index 0 on replace the elements they reach (R229). -/
theorem storeFrom_zero {n : Nat} (v : Vector Byte n) (bs : List Byte) :
    storeFrom v 0 bs = Vector.ofFn (fun k => (bs[k.val]?).getD v[k]) := by
  ext i hi
  simp [storeFrom_getElem]

/-- The accepted marker pairs, by profile (R7, R220). -/
theorem markersAccepted_iff (p : Profile) (m0 m1 : Byte) :
    markersAccepted p m0 m1 = true ↔ m0 = 0x00 ∧ m1 = 0xB9 ∨ p = .ev3Compatible ∧ m0 = 0x01 ∧ m1 = 0xB8 := by
  cases p <;> simp [markersAccepted, wdMarkers]

/-! ### Messages in their context and outside it -/

theorem parserReady_of_connected {s : State} (hl : s.link = .connected) (hp : s.ph = .idle) : s.parserReady = true := by
  simp [State.parserReady, hl, hp]

theorem parserReady_of_not_connected {s : State} (hl : s.link ≠ .connected) : ¬ s.parserReady = true := by
  simp [State.parserReady, hl]

/-- In `Connected` with the parser idle a well-formed message is the byte machine over its bytes (R211). -/
theorem exec_message {s : State} (hl : s.link = .connected) (hp : s.ph = .idle) {i : Instr} (hi : contextOf i = some .steady)
    (hw : wellFormed s.profile i = true) : exec i s = .next (parseBytes s (encode i)) :=
  exec_eq_parseBytes s.profile i s hi (parserReady_of_connected hl hp) hw

theorem takeMessage_of_not_connected {s : State} (hl : s.link ≠ .connected) (bs : List Byte) : s.takeMessage bs = s :=
  if_neg (parserReady_of_not_connected hl)

/-- Settles O13: the byte machine stays in its state over the one byte of either message. -/
theorem fillerAndKeepaliveHaveNoEffect : Obligations.FillerAndKeepaliveHaveNoEffect := by
  intro s hl hp
  refine ⟨?_, ?_, fun rest => ⟨rfl, rfl⟩⟩
  · rw [exec_message hl hp rfl rfl]
    exact congrArg _ (parseByte_filler hp (.inl rfl))
  · rw [exec_message hl hp rfl rfl]
    exact congrArg _ (parseByte_filler hp (.inr rfl))

/-- Settles O14: mode byte and accumulator from the two bytes before, then the checksum phase. -/
theorem selectSetsTheMode : Obligations.SelectSetsTheMode := by
  intro s m ck hl hp
  have hbytes : encode (.select m ck) = [0x43, m] ++ [ck] := rfl
  rw [exec_message hl hp rfl rfl, hbytes, parseBytes_append, parseBytes_selectPrefix s m hp, parseBytes_cons, parseBytes_nil,
    parseByte_selCk _ _ rfl, parseSelCk_eq, hp]

/-- Settles O15: accepted markers, data frame, then the checksum phase. -/
theorem writeDataCommitsTheWholeText : Obligations.WriteDataCommitsTheWholeText := by
  intro s m0 m1 d hl hp hw
  have hbytes : encode (.writeData m0 m1 (some d)) = [0x46, m0, m1] ++ ((d.sizeMode :: d.payload) ++ [d.ck]) := rfl
  obtain ⟨hmarkers, hlength⟩ : markersAccepted s.profile m0 m1 = true ∧ d.payload.length = declaredLength d.sizeMode := by
    simpa [wellFormed] using hw
  rw [exec_message hl hp rfl hw, hbytes, parseBytes_append, parseBytes_markers s m0 m1 hp hmarkers, parseBytes_append,
    parseBytes_dataFrame _ _ _ rfl hlength, parseBytes_cons, parseBytes_nil, parseByte_wdCk _ _ rfl, parseWdCk_eq, hp]
  simp [padText, spaceByte, bankOf]

/-- Settles O16: the markers named are those a profile accepts, and any other pair ends the message. -/
theorem refusedMarkersEndTheMessage : Obligations.RefusedMarkersEndTheMessage := by
  intro s m0 m1 hl hp hfirst hsecond
  have hrefused : markersAccepted s.profile m0 m1 = false :=
    Bool.eq_false_iff.2 (fun h => ((markersAccepted_iff _ _ _).1 h).elim hfirst hsecond)
  have hw : wellFormed s.profile (.writeData m0 m1 none) = true := by simp [wellFormed, hrefused]
  have hbytes : encode (.writeData m0 m1 none) = [0x46, m0, m1] := rfl
  rw [exec_message hl hp rfl hw, hbytes, parseBytes_refusedMarkers s m0 m1 hp hrefused, State.emit, hp]

/-- Settles O17: the payload is stored over `cb` and read back whole by the checksum phase. -/
theorem comboChangesNothingElse : Obligations.ComboChangesNothingElse := by
  intro s data ck hl hp hlen
  have hlength : data.length = comboLen s.profile := hlen
  have hw : wellFormed s.profile (.combo data ck) = true := beq_iff_eq.2 hlength
  have hbytes : encode (.combo data ck) = (0x4C :: data) ++ [ck] := rfl
  rw [exec_message hl hp rfl hw, hbytes, parseBytes_append, parseBytes_comboPayload s data hp hlength, parseBytes_cons,
    parseBytes_nil, parseByte_cbCk _ _ rfl, parseCbCk_eq, hp]
  dsimp only
  rw [storeFrom_cb s.profile s.cb data hlength, storeFrom_zero]

/-- Settles O18: any byte but the five of R103 is unrecognised, reported by the parser and decoded to `UNKNOWN`. -/
theorem unknownByteIsReportedOnly : Obligations.UnknownByteIsReportedOnly := by
  intro s b hl hp h0 h2 h43 h46 h4C
  have hdecode rest : decodeSteady s.profile (b :: rest) = .ok (.unknown b) rest := by
    obtain ⟨-, -, -, -, -, hother⟩ := decodeSteady_dispatch s.profile rest
    exact hother b h0 h2 h43 h46 h4C
  exact ⟨congrArg _ (if_pos (parserReady_of_connected hl hp)), hdecode⟩

/-- Settles O19: five rows take their message and `UNKNOWN` reports its byte only where the parser is ready. -/
theorem noMessageIsParsedOutsideConnected : Obligations.NoMessageIsParsedOutsideConnected := by
  intro s hl
  have htake bs : Host.Outcome.next (s.takeMessage bs) = (.next s : Host.Outcome State Fault Refusal) :=
    congrArg _ (takeMessage_of_not_connected hl bs)
  exact ⟨htake _, htake _, fun _ _ => htake _, fun _ _ _ => htake _, fun _ _ => htake _,
    fun _ => congrArg _ (if_neg (parserReady_of_not_connected hl))⟩

/-- The header of an EV3 unit declares the two value bytes (R99, R254). -/
theorem declaredLength_ev3Header (m : ModeNum) : declaredLength (ev3Header m) = 2 := by
  revert m
  decide

/-- Settles O42: the unit is the encoding of that WRITE-DATA, which decodes to itself. -/
theorem loopedBackUnitIsAValidWriteData : Obligations.LoopedBackUnitIsAValidWriteData := by
  intro p v m
  have hw : wellFormed p (.writeData 0x00 0xB9
      (some ⟨ev3Header m, [lowByte v, highByte v], checksum [ev3Header m, lowByte v, highByte v]⟩)) = true := by
    have hmarkers : markersAccepted p 0x00 0xB9 = true := (markersAccepted_iff ..).2 (.inl ⟨rfl, rfl⟩)
    simpa [wellFormed, declaredLength_ev3Header] using hmarkers
  exact ⟨_, Laws.RoundTrip.writeData _ _ _ p .steady [] rfl hw (fun _ => rfl), rfl, rfl, hw⟩

end Sys2Proof.Machine
end

section
/-! The drain message by message (R211, R212), and its agreement with `drain_fn` (R240, R241). -/

namespace Sys2Proof.Machine

theorem parseBytes_link (s : State) (bs : List Byte) : (parseBytes s bs).link = s.link := congrArg (·.link) (parseBytes_frame s bs)
theorem parseBytes_cfg (s : State) (bs : List Byte) : (parseBytes s bs).cfg = s.cfg := congrArg (·.cfg) (parseBytes_frame s bs)

/-- Settles O20: the string is the message's encoding and the bytes behind it, and the loop over the encoding is the byte
machine over it. -/
theorem drainRunsTheDecodedMessage : Obligations.DrainRunsTheDecodedMessage := by
  intro s bs hl hp
  constructor
  · intro i rest hdecode
    obtain ⟨hi, rfl, hw⟩ := decodeSteady_ok _ _ _ _ hdecode
    obtain ⟨hidle, -⟩ := parseBytes_message s.profile i s hp rfl hi hw ⟨s.mode, s.text, []⟩ rfl rfl
    exact ⟨parseBytes s (encode i), exec_message hl hp hi hw, (parseBytes_link ..).trans hl, hidle, parseBytes_cfg ..,
      drainLoop_append _ _ _ (encode_ne_nil i hi)⟩
  · intro ph hdecode
    rw [drainLoop_eq]
    exact parseBytes_truncated s bs ph hp hdecode

/-- What a drain has done so far, `before` being the events reported when it began: mode, text and the new events (R240). -/
structure State.Shows (s : State) (before : List Diag) (r : DrainResult) : Prop where
  mode   : s.mode = r.mode
  text   : s.text = r.text
  events : s.diag = before ++ r.events

/-- A whole message does the same to the state and to the result (R235, R240). -/
theorem State.Shows.message {s : State} {before : List Diag} {r : DrainResult} (h : s.Shows before r) (hp : s.ph = .idle)
    {i : Instr} (hi : contextOf i = some .steady) (hw : wellFormed s.profile i = true) :
    (parseBytes s (encode i)).ph = .idle ∧ (parseBytes s (encode i)).Shows before (r.message i) := by
  obtain ⟨hidle, hmode, htext, d, hdiag, hevents⟩ := parseBytes_message s.profile i s hp rfl hi hw r h.mode.symm h.text.symm
  exact ⟨hidle, hmode, htext, by rw [hdiag, h.events, hevents, List.append_assoc]⟩

theorem endOfDrain_idle {s : State} (hp : s.ph = .idle) : endOfDrain s = s := if_pos hp

/-- A string that ends inside a message leaves the truncation reported and nothing else (R212, R240). -/
theorem State.Shows.truncated {s : State} {before : List Diag} {r : DrainResult} (h : s.Shows before r) (hp : s.ph = .idle)
    {bs : List Byte} {ph : Phase} (hph : ph ≠ .idle) (hdecode : decodeSteady s.profile bs = .rejected (.truncated ph)) :
    (endOfDrain (parseBytes s bs)).Shows before { r with events := r.events ++ [.truncated ph] } := by
  obtain ⟨rfl, hmode, htext, hdiag⟩ := parseBytes_truncated s bs ph hp hdecode
  rw [endOfDrain, if_neg hph]
  exact ⟨hmode.trans h.mode, htext.trans h.text, by simp [hdiag, h.events]⟩

/-- Message by message, the byte machine and `drain_fn` do the same (R241). -/
theorem State.Shows.drainMessages : ∀ (n : Nat) {s : State} {before : List Diag} {r : DrainResult} (bs : List Byte),
    s.Shows before r → s.ph = .idle → bs.length ≤ n →
    (endOfDrain (parseBytes s bs)).Shows before (drainMessages n s.profile r bs)
  | 0, s, before, r, bs, h, hp, hn => by
    obtain rfl := List.length_eq_zero_iff.1 (Nat.le_zero.1 hn)
    rwa [parseBytes_nil, endOfDrain_idle hp]
  | n + 1, s, before, r, [], h, hp, _ => by
    rwa [parseBytes_nil, endOfDrain_idle hp]
  | n + 1, s, before, r, b :: bs, h, hp, hn => by
    rw [Machine.drainMessages]
    obtain ⟨i, rest, hdecode⟩ | ⟨ph, hph, hdecode⟩ := decodeSteady_okOrInMessage s.profile b bs
    · rw [hdecode]
      obtain ⟨hi, hbytes, hw⟩ := decodeSteady_ok _ _ _ _ hdecode
      have hshorter : rest.length ≤ n := by
        have hpos := List.length_pos_iff.2 (encode_ne_nil i hi)
        have hlength := congrArg List.length hbytes
        rw [List.length_append] at hlength
        omega
      obtain ⟨hidle, hshows⟩ := h.message hp hi hw
      rw [← hbytes, parseBytes_append, ← parseBytes_profile s (encode i)]
      exact hshows.drainMessages n rest hidle hshorter
    · rw [hdecode]
      exact h.truncated hp hph hdecode

/-- Settles O21: at the drain's start the result shows the state with no event, and the rest is the frame of the drain. -/
theorem drainAgreesWithDrainFunction : Obligations.DrainAgreesWithDrainFunction := by
  intro s
  have hstart : State.Shows { s with ph := .idle } s.diag ⟨s.mode, s.text, []⟩ := ⟨rfl, rfl, (List.append_nil _).symm⟩
  obtain ⟨hmode, htext, hevents⟩ := hstart.drainMessages s.rxFifo.length s.rxFifo rfl le_rfl
  refine ⟨?_, ?_, ?_, drain_rxFifo s, drain_ph s, drain_frame s⟩
  · rw [drain_eq]; exact hmode
  · rw [drain_eq]; exact htext
  · rw [drain_eq]; exact hevents

end Sys2Proof.Machine
end

section
/-! The rows that send, and the rows outside their context (R250 to R261, R280): an outbound row is one write of its unit, a tick is
the drain and the row of the device's profile, and a row whose context does not hold leaves the state. -/

namespace Sys2Proof.Machine

/-! ### One write of a unit -/

/-- A whole count adds the write and changes nothing more (R257). -/
theorem sendUnit_whole {s : State} {u : List Byte} {n : Nat} (hn : n = s.txCount u.length) (hwhole : n = u.length) :
    sendUnit s u = s.wrote u n := by
  rw [sendUnit_eq, ← hn, if_neg hwhole.not_lt]

/-- A short count also loses the link and reports it (R258, D18, D26). -/
theorem sendUnit_short {s : State} {u : List Byte} {n : Nat} (hn : n = s.txCount u.length) (hshort : n < u.length) :
    sendUnit s u = { s.wrote u n with link := .disconnected, diag := s.diag ++ [.linkLost n] } := by
  rw [sendUnit_eq, ← hn, if_pos hshort]
  rfl

/-- Both ends of a write as one update of the state (R257, R258). -/
theorem sendUnit_eq_update {s : State} {u : List Byte} {n : Nat} (hn : n = s.txCount u.length) :
    sendUnit s u = { s.wrote u n with
      link := if n < u.length then .disconnected else s.link
      diag := s.diag ++ if n < u.length then [.linkLost n] else [] } := by
  by_cases hshort : n < u.length
  · rw [sendUnit_short hn hshort, if_pos hshort, if_pos hshort]
  · have hwhole : n = u.length := le_antisymm (hn ▸ s.txCount_le _) (not_lt.1 hshort)
    rw [sendUnit_whole hn hwhole, if_neg hshort, if_neg hshort, List.append_nil]
    rfl

/-! ### The two outbound rows -/

theorem State.encoderReady_iff (s : State) (p : Profile) : s.encoderReady p = true ↔ s.link = .connected ∧ s.profile = p := by
  simp [State.encoderReady]

theorem exec_dataGeneric {s : State} (hl : s.link = .connected) (hp : s.profile = .generic) (d ck : Byte) :
    exec (.dataGeneric d ck) s = .next (sendUnit s (genericUnit d)) :=
  congrArg _ (if_pos ((s.encoderReady_iff _).2 ⟨hl, hp⟩))

theorem exec_dataEv3 {s : State} (hl : s.link = .connected) (hp : s.profile = .ev3Compatible) (k : BitVec 3) (lo hi ck : Byte) :
    exec (.dataEv3 k lo hi ck) s = .next (sendUnit s (ev3Unit (ev3HeaderOf k) lo hi)) :=
  congrArg _ (if_pos ((s.encoderReady_iff _).2 ⟨hl, hp⟩))

/-- Settles O34: the row is one write of the Generic unit, whole or short. -/
theorem genericRowIsOneWriteOfThreeBytes : Obligations.GenericRowIsOneWriteOfThreeBytes := by
  intro s d ck n hl hp hn
  rw [exec_dataGeneric hl hp, ← genericUnit_eq]
  exact ⟨hn ▸ s.txCount_le 3, fun hwhole => congrArg _ (sendUnit_whole hn hwhole),
    fun hshort => congrArg _ (sendUnit_short hn hshort)⟩

/-- Settles O35: the row is one write of the EV3 unit, whole or short. -/
theorem ev3RowIsOneWriteOfSevenBytes : Obligations.Ev3RowIsOneWriteOfSevenBytes := by
  intro s k lo hi ck hdr n hl hp hhdr hn
  obtain rfl : hdr = ev3HeaderOf k := hhdr
  rw [exec_dataEv3 hl hp, ← ev3Unit_eq]
  exact ⟨hn ▸ s.txCount_le 7, fun hwhole => congrArg _ (sendUnit_whole hn hwhole),
    fun hshort => congrArg _ (sendUnit_short hn hshort)⟩

/-! ### A tick in `Connected` -/

theorem drain_value (s : State) : (drain s).value = s.value := congrArg (·.value) (drain_frame s)

theorem drain_profile (s : State) : (drain s).profile = s.profile := congrArg (·.profile) (drain_cfg s)

/-- A drain transmits nothing, so the count the transport will answer stays (R211). -/
theorem drain_txCount (s : State) (n : Nat) : (drain s).txCount n = s.txCount n :=
  s.txCount_congr _ n (congrArg (·.txAnswers) (drain_frame s)) (congrArg (·.draws) (drain_frame s))

theorem exec_tick {s : State} (hl : s.link = .connected) : exec .tick s = .next (send (drain s)) :=
  congrArg _ (if_pos hl)

/-- The send is the execution of the outbound row; of the mode the row holds the three bits that reach the header (R251, R256). -/
theorem exec_outboundInstr (s : State) : exec (outboundInstr s) s = .next (send s) := by
  unfold outboundInstr send
  cases s.profile with
  | generic => rfl
  | ev3Compatible => rw [← ev3HeaderOf_ev3ModeBits]; rfl

/-- The outbound row carries the checksum of its own unit (R252, R254). -/
theorem wellFormed_outboundInstr (s : State) : wellFormed s.profile (outboundInstr s) = true := by
  unfold outboundInstr
  cases s.profile with
  | generic => simp [wellFormed]
  | ev3Compatible => simp [wellFormed, ev3HeaderOf_ev3ModeBits]

/-- The outbound row's bytes are the outbound unit (R251, R252, R254). -/
theorem encode_outboundInstr (s : State) : encode (outboundInstr s) = outboundUnit s.profile s.value s.mode := by
  unfold outboundInstr outboundUnit
  cases s.profile with
  | generic => rfl
  | ev3Compatible => rw [← ev3HeaderOf_ev3ModeBits]; rfl

/-- Settles O36: the send of the drained state is its outbound row, and the drain leaves profile and value. -/
theorem tickRunsTheOutboundRow : Obligations.TickRunsTheOutboundRow := by
  intro s hl
  rw [exec_tick hl, exec_outboundInstr, encode_outboundInstr, ← drain_profile s, drain_value]
  exact ⟨rfl, wellFormed_outboundInstr _, rfl⟩

/-- A tick in `Connected` is one write of the device's unit after the drain; a short count loses the link (R257, R258, R280). -/
theorem exec_tick_eq_update {s : State} (hl : s.link = .connected) {u : List Byte}
    (hu : outboundUnit s.profile s.value (drain s).mode = u) {n : Nat} (hn : n = s.txCount u.length) :
    exec .tick s = .next { (drain s).wrote u n with
      link := if n < u.length then .disconnected else .connected
      diag := (drain s).diag ++ if n < u.length then [.linkLost n] else [] } := by
  have hdl : (drain s).link = .connected := (drain_link s).trans hl
  rw [exec_tick hl, send_of_connected _ hdl, drain_profile, drain_value, hu,
    sendUnit_eq_update (hn.trans (drain_txCount s _).symm), hdl]

/-- Settles O37: the unit of a Generic device is that of the low byte of `value`. -/
theorem genericTickSendsTheLowByte : Obligations.GenericTickSendsTheLowByte := by
  intro s d n hl hp hd hn
  obtain rfl : d = lowByte s.value := BitVec.eq_of_toNat_eq (hd.trans (toNat_lowByte _).symm)
  rw [← genericUnit_eq]
  exact exec_tick_eq_update hl (by rw [hp]; rfl) hn

/-- The EV3 header by arithmetic (R100). -/
theorem toNat_ev3Header (m : ModeNum) : (ev3Header m).toNat = 0xC8 ||| m.toNat := by
  revert m
  decide

/-- Settles O38: the unit of an Ev3Compatible device is that of the drained mode's header and the two bytes of `value`. -/
theorem ev3TickSendsModeAndValue : Obligations.Ev3TickSendsModeAndValue := by
  intro s hdr lo hi n hl hp hhdr hlo hhi hn
  obtain rfl : hdr = ev3Header (drain s).mode := BitVec.eq_of_toNat_eq (hhdr.trans (toNat_ev3Header _).symm)
  obtain rfl : lo = lowByte s.value := BitVec.eq_of_toNat_eq (hlo.trans (toNat_lowByte _).symm)
  obtain rfl : hi = highByte s.value := BitVec.eq_of_toNat_eq (hhi.trans (toNat_highByte _).symm)
  rw [← ev3Unit_eq]
  exact exec_tick_eq_update hl (by rw [hp]; rfl) hn

/-! ### Rows outside their context -/

/-- A ROM row is sent only in the send step and at its place (R178, R260). -/
theorem sendRow_outside {s : State} {i : Instr} (h : s.hsStep ≠ .send ∨ ∀ l, s.romLine? = some l → l.instr ≠ i) :
    sendRow i s = s := by
  unfold sendRow
  cases hl : s.romLine? with
  | none => rfl
  | some l => exact if_neg fun ⟨hst, hi⟩ => h.elim (· hst) fun hplace => hplace l hl hi

/-- Settles O27: a ROM row's meaning is its transmission, which needs the send step and its place. -/
theorem romRowsNeedTheSendStep : Obligations.RomRowsNeedTheSendStep := by
  intro s slot h p hout
  rw [exec_romInstr, sendRow_outside hout]

theorem not_encoderReady {s : State} {p : Profile} (h : s.link ≠ .connected ∨ s.profile ≠ p) : ¬ s.encoderReady p = true :=
  fun hready => have ⟨hl, hp⟩ := (s.encoderReady_iff p).1 hready; h.elim (· hl) (· hp)

/-- Settles O40: each of the four rows tests its context first. -/
theorem rowsOutsideTheirContextDoNothing : Obligations.RowsOutsideTheirContextDoNothing := by
  intro s
  refine ⟨fun hst => ⟨?_, fun _ => ?_⟩, fun hout _ _ => ?_, fun hout _ _ _ _ => ?_⟩
  · exact congrArg _ (if_neg hst)
  · exact congrArg _ (if_neg hst)
  · exact congrArg _ (if_neg (not_encoderReady hout))
  · exact congrArg _ (if_neg (not_encoderReady hout))

/-- Bit 3 of the mode falls on a header bit that is set (R256, D28). -/
theorem ev3Header_sub_eight (m : ModeNum) : ev3Header m = ev3Header (m - 8) := by
  revert m
  decide

/-- Settles O41: bit 3 of the mode is lost in the header, and the low three bits make it. -/
theorem upperModesShareTheHeader : Obligations.UpperModesShareTheHeader :=
  fun m _ => ⟨ev3Header_sub_eight m, (ev3HeaderOf_ev3ModeBits m).symm⟩

end Sys2Proof.Machine
end

section
/-! The host operations and the link (R271 to R285): the registers the host writes and reads, and the moves of the link under each
event. -/

namespace Sys2Proof.Machine

/-! ### The registers the host writes and reads -/

/-- The stored value by arithmetic (R282, D3). -/
theorem toNat_valueOf (v : Int) : ((valueOf v).toNat : Int) = v % 65536 := by
  have hnonneg : 0 ≤ v % 65536 := Int.emod_nonneg v (by decide)
  rw [valueOf, BitVec.toNat_ofInt]
  exact Int.toNat_of_nonneg hnonneg

/-- Settles O43: the value stored is `valueOf v`, whose number is `v` modulo 2^16. -/
theorem setValueStoresSixteenBits : Obligations.SetValueStoresSixteenBits :=
  fun s v => ⟨valueOf v, exec_event (.setValue v) s, toNat_valueOf v⟩

theorem isConnectedFlag_eq_decide (l : Link) : isConnectedFlag l = decide (l = .connected) := by
  cases l <;> rfl

/-- Settles O44: `is_connected` answers the flag of the link and adds only the reply. -/
theorem isConnectedAnswersTheLink : Obligations.IsConnectedAnswersTheLink := by
  intro s
  rw [← isConnectedFlag_eq_decide]
  exact exec_event .isConnected s

/-- Settles O45: each accessor adds its register as the reply. -/
theorem readAccessorsAnswerTheirRegister : Obligations.ReadAccessorsAnswerTheirRegister :=
  fun s => ⟨exec_event .getMode s, exec_event .getText s⟩

/-! ### A tick outside `Connected` -/

theorem perform_tick_of_not_connected {s : State} (h : s.link ≠ .connected) : s.perform .tick = s := if_neg h

/-- Settles O39: a tick tests the link before its drain and its send. -/
theorem tickOutsideConnectedIsIgnored : Obligations.TickOutsideConnectedIsIgnored :=
  fun s h => (exec_event .tick s).trans (congrArg _ (perform_tick_of_not_connected h))

/-! ### The moves of the link -/

/-- The table lets the link stay, but for a reset and for a `connect` in `Disconnected`, which must start a handshake (R275). -/
theorem linkMoveAllowed_stay {e : Event} {l : Link} (hr : e ≠ .reset) (hc : e = .connect → l ≠ .disconnected) :
    linkMoveAllowed e l l = true := by
  cases e with
  | reset => exact absurd rfl hr
  | connect =>
    cases l with
    | disconnected => exact absurd rfl (hc rfl)
    | handshaking | connected => rfl
  | tick | setValue _ | getMode | isConnected | getText | ms | rx _ => cases l <;> rfl

/-- An event that leaves the link as it is makes an allowed move, with the same two exceptions. -/
theorem linkMoveAllowed_of_link_eq {s t : State} {e : Event} (hlink : t.link = s.link) (hr : e ≠ .reset)
    (hc : e = .connect → s.link ≠ .disconnected) : linkMoveAllowed e s.link t.link = true := by
  rw [hlink]
  exact linkMoveAllowed_stay hr hc

/-- Every end of a millisecond of a handshake is in the table: it goes on, succeeds or fails (R272, R273). -/
theorem linkMoveAllowed_ms_handshaking (b : Link) : linkMoveAllowed .ms .handshaking b = true := by
  cases b <;> rfl

/-- `connect` leaves `Disconnected` for `Handshaking` and is ignored elsewhere (R271, R276). -/
theorem perform_connect_linkMoveAllowed (s : State) : linkMoveAllowed .connect s.link (s.perform .connect).link = true := by
  obtain ⟨hl, he⟩ | ⟨hl, he⟩ := perform_connect_cases s
  · exact linkMoveAllowed_of_link_eq (congrArg (·.link) he) nofun fun _ => hl
  · rw [he, hl]
    rfl

/-- A tick loses the link of a `Connected` device on a short count and moves it in no other case (R274, R280). -/
theorem perform_tick_linkMoveAllowed (s : State) : linkMoveAllowed .tick s.link (s.perform .tick).link = true := by
  obtain ⟨-, he⟩ | ⟨hl, unit, n, he | he⟩ := perform_tick_cases s
  · exact linkMoveAllowed_of_link_eq (congrArg (·.link) he) nofun nofun
  · exact linkMoveAllowed_of_link_eq ((congrArg (·.link) he).trans (drain_link s)) nofun nofun
  · rw [he, hl]
    rfl

/-- Outside a handshake the sequencer rests, so a millisecond does nothing there (R33, R171). -/
theorem millisecond_of_not_handshaking {s : State} (h : s.inv = true) (hl : s.link ≠ .handshaking) : millisecond s = s :=
  millisecond_idle (hsStep_idle_of_not_handshaking (sequencerOk_of_inv h) hl)

/-- A millisecond moves the link out of `Handshaking` only (R272, R273). -/
theorem millisecond_linkMoveAllowed {s : State} (h : s.inv = true) : linkMoveAllowed .ms s.link (millisecond s).link = true := by
  by_cases hl : s.link = .handshaking
  · rw [hl]
    exact linkMoveAllowed_ms_handshaking _
  · exact linkMoveAllowed_of_link_eq (congrArg (·.link) (millisecond_of_not_handshaking h hl)) nofun nofun

/-- Every event moves the link by the table. Those that return or store a value, or receive a byte, do not write it. -/
theorem perform_linkMoveAllowed {s : State} (h : s.inv = true) (e : Event) :
    linkMoveAllowed e s.link (s.perform e).link = true := by
  cases e with
  | connect => exact perform_connect_linkMoveAllowed s
  | tick => exact perform_tick_linkMoveAllowed s
  | ms => exact millisecond_linkMoveAllowed h
  | rx b => exact linkMoveAllowed_of_link_eq (congrArg (·.link) (rx_frame s b)) nofun nofun
  | reset => rfl
  | setValue _ | getMode | isConnected | getText => exact linkMoveAllowed_stay nofun nofun

/-- Settles O52: a step with an event to come is that event, which moves the link by the table. -/
theorem linkMovesOnlyByTheTable : Obligations.LinkMovesOnlyByTheTable := by
  intro s t e rest h hi hstep
  obtain rfl := eq_perform_of_step hi hstep
  exact perform_linkMoveAllowed ((s.inv_inputs rest).trans h) e

end Sys2Proof.Machine
end

section
/-! Nothing is raised (R300): every row's meaning is a next state, and a step is the row of the next event or holds the state. -/

namespace Sys2Proof.Machine

/-- Every row has a meaning, and where its context does not hold that meaning leaves the state: no arm is a fault or a refusal. -/
theorem exec_next (i : Instr) (s : State) : ∃ t, exec i s = .next t := by
  cases i with
  -- inbound: the byte machine over the message, or a byte polled in the ACK wait
  | nop0 | keepalive | select _ _ | writeData _ _ _ | combo _ _ | unknown _ => exact ⟨_, rfl⟩
  | ackEcho | ackwaitDiscard _ => exact ⟨_, rfl⟩
  -- outbound: one write, of a ROM row (`exec_romInstr`) or of a unit
  | sync | type _ _ | modes _ _ | speed _ _ | version _ _ | infoName _ _ | infoRaw _ _ | infoPct _ _ | infoSi _ _
  | infoSymbol _ _ | infoMapping _ _ | infoFormat _ _ | ack => exact ⟨sendRow _ s, rfl⟩
  | dataGeneric _ _ | dataEv3 _ _ _ _ => exact ⟨_, rfl⟩
  -- host operations: the event they stand for (`exec_event`)
  | connect | tick | setValue _ | getMode | isConnected | getText | ms | rx _ | reset => exact ⟨_, rfl⟩
  -- codec functions: a reply
  | checksum _ | buildFrame _ _ | verifyFrame _ => exact ⟨s.answer _, rfl⟩

/-- A step answers a next state, with an event to come and without. -/
theorem step_next (s : State) : ∃ t, step s = .next t := by
  cases hi : s.inputs with
  | nil => exact ⟨s, step_of_inputs_nil hi⟩
  | cons e rest => exact ⟨_, (step_of_inputs_cons hi).trans (exec_event e _)⟩

/-- Settles O49: no meaning ends in a fault or a refusal, and a step runs at most one of them. -/
theorem nothingIsRaised : Obligations.NothingIsRaised := ⟨exec_next, step_next⟩

end Sys2Proof.Machine
end

section
/-! Decode and encode agree (R92 to R105): the round trip of every row in its context, and what a context's decoder reads encodes
back to the bytes read. -/

namespace Sys2Proof
open Machine

/-! ### Decode of encode -/

/-- The round trip, row by row: what has no context has nothing to show, and each other row has its lemma of the family. -/
theorem roundTrip_of_instr (i : Instr) : Laws.RoundTrip.Statement i := by
  cases i with
  -- steady state
  | nop0 => exact Laws.RoundTrip.nop0
  | keepalive => exact Laws.RoundTrip.keepalive
  | select m ck => exact Laws.RoundTrip.select m ck
  | writeData m0 m1 data => exact Laws.RoundTrip.writeData m0 m1 data
  | combo data ck => exact Laws.RoundTrip.combo data ck
  | unknown b => exact Laws.RoundTrip.unknown b
  -- ACK wait
  | ackEcho => exact Laws.RoundTrip.ackEcho
  | ackwaitDiscard b => exact Laws.RoundTrip.ackwaitDiscard b
  -- handshake ROM
  | sync => exact Laws.RoundTrip.sync
  | type h pl => exact Laws.RoundTrip.type h pl
  | modes h pl => exact Laws.RoundTrip.modes h pl
  | speed h pl => exact Laws.RoundTrip.speed h pl
  | version h pl => exact Laws.RoundTrip.version h pl
  | infoName h pl => exact Laws.RoundTrip.infoName h pl
  | infoRaw h pl => exact Laws.RoundTrip.infoRaw h pl
  | infoPct h pl => exact Laws.RoundTrip.infoPct h pl
  | infoSi h pl => exact Laws.RoundTrip.infoSi h pl
  | infoSymbol h pl => exact Laws.RoundTrip.infoSymbol h pl
  | infoMapping h pl => exact Laws.RoundTrip.infoMapping h pl
  | infoFormat h pl => exact Laws.RoundTrip.infoFormat h pl
  | ack => exact Laws.RoundTrip.ack
  -- outbound units
  | dataGeneric d ck => exact Laws.RoundTrip.dataGeneric d ck
  | dataEv3 k lo hi ck => exact Laws.RoundTrip.dataEv3 k lo hi ck
  -- host operations and codec functions
  | connect | tick | setValue _ | getMode | isConnected | getText | ms | rx _ | reset | checksum _ | buildFrame _ _
  | verifyFrame _ => exact Laws.RoundTrip.of_no_context rfl

/-- Settles O7: every row makes the round trip in its context. -/
theorem decodeOfEncodeIsTheInstruction : Obligations.DecodeOfEncodeIsTheInstruction :=
  fun p c i rest => roundTrip_of_instr i p c rest

/-! ### Encode of decode, context by context -/

/-- A poll reads ACK_ECHO or, by the comparison's failure, a well-formed ACKWAIT_DISCARD (R104). -/
theorem decodeAckWait_ok (p : Profile) {bs rest : List Byte} {i : Instr} (h : decodeAckWait bs = .ok i rest) :
    contextOf i = some .ackWait ∧ encode i ++ rest = bs ∧ wellFormed p i = true := by
  cases bs with
  | nil => cases h
  | cons b r =>
    rw [decodeAckWait] at h
    split at h
    case isTrue hb =>
      cases h
      exact ⟨rfl, by rw [hb]; rfl, rfl⟩
    case isFalse hb =>
      cases h
      exact ⟨rfl, rfl, bne_iff_ne.mpr hb⟩

theorem contextOf_romInstr (slot : RomSlot) (h : Byte) (pl : List Byte) :
    contextOf (romInstr slot h pl) = some (.rom slot) := by
  cases slot <;> rfl

/-- A ROM row is well formed unless its frame has no payload (R157). -/
theorem wellFormed_romInstr (p : Profile) (slot : RomSlot) (h : Byte) {pl : List Byte} (hp : pl ≠ []) :
    wellFormed p (romInstr slot h pl) = true := by
  have hpl : (!pl.isEmpty) = true := by simpa using hp
  cases slot with
  | sync | ack => rfl
  | _ => exact hpl

/-- A valid frame of at least three bytes is the frame built of its first byte and a payload that is not empty (R131, R132). -/
theorem exists_buildFrame_of_verifyFrame {bs : List Byte} (hl : 3 ≤ bs.length) (hv : verifyFrame bs = true) :
    ∃ h pl, pl ≠ [] ∧ bs = buildFrame h pl := by
  rcases List.eq_nil_or_concat' bs with rfl | ⟨body, ck, rfl⟩
  · cases hv
  rw [verifyFrame_concat, beq_iff_eq] at hv
  match body, hl with
  | h :: b :: pl, _ => exact ⟨h, b :: pl, List.cons_ne_nil b pl, by rw [buildFrame, hv]⟩

/-- A frame slot reads the row of a frame (R157). -/
theorem decodeRomFrame_ok {slot : RomSlot} {bs rest : List Byte} {i : Instr} (h : decodeRomFrame slot bs = .ok i rest) :
    ∃ hd pl, pl ≠ [] ∧ bs = buildFrame hd pl ∧ i = romInstr slot hd pl ∧ rest = [] := by
  by_cases hf : 3 ≤ bs.length ∧ verifyFrame bs = true
  · obtain ⟨hd, pl, hp, rfl⟩ := exists_buildFrame_of_verifyFrame hf.1 hf.2
    rw [decodeRomFrame_buildFrame slot hd pl hp] at h
    cases h
    exact ⟨hd, pl, hp, rfl, rfl, rfl⟩
  · rw [decodeRomFrame, if_neg hf] at h
    cases h

/-- A slot of the ROM reads its own row: a bare byte (R152) or a frame (R157). -/
theorem decodeRom_ok (p : Profile) {slot : RomSlot} {bs rest : List Byte} {i : Instr} (h : decodeRom slot bs = .ok i rest) :
    contextOf i = some (.rom slot) ∧ encode i ++ rest = bs ∧ wellFormed p i = true := by
  by_cases hs : isFrameSlot slot = true
  · rw [decodeRom_frameSlot slot bs hs] at h
    obtain ⟨hd, pl, hp, rfl, rfl, rfl⟩ := decodeRomFrame_ok h
    exact ⟨contextOf_romInstr slot hd pl, by rw [encode_romInstr_frame slot hd pl hs, List.append_nil],
      wellFormed_romInstr p slot hd hp⟩
  · cases slot with
    | sync | ack =>
      simp only [decodeRom] at h
      split at h
      · subst bs
        cases h
        exact ⟨rfl, rfl, rfl⟩
      · cases h
    | _ => exact absurd rfl hs

/-- The encoder's context reads the profile's unit; the header of an EV3 unit is that of its mode bits (R252, R254, R256). -/
theorem decodeOutbound_ok {p : Profile} {bs rest : List Byte} {i : Instr} (h : decodeOutbound p bs = .ok i rest) :
    contextOf i = some .outbound ∧ encode i ++ rest = bs := by
  cases p with
  | generic =>
    simp only [decodeOutbound] at h
    split at h
    · split at h
      · subst_vars
        cases h
        exact ⟨rfl, rfl⟩
      · cases h
    · cases h
  | ev3Compatible =>
    simp only [decodeOutbound] at h
    split at h
    case h_1 a b c hd lo hi ck r =>
      split at h
      case isTrue hunit =>
        obtain ⟨rfl, rfl, rfl, hmask⟩ := hunit
        cases h
        exact ⟨rfl, by rw [encode, ev3HeaderOf_lowField hd hmask]; rfl⟩
      case isFalse => cases h
    case h_2 => cases h

/-- Settles O8: each context's decoder reads a row of its context whose bytes are those read. -/
theorem decodingDropsNoByte : Obligations.DecodingDropsNoByte := by
  intro p c bs i rest h
  cases c with
  | steady =>
    obtain ⟨hc, he, hw⟩ := decodeSteady_ok p bs rest i h
    exact ⟨hc, he, fun _ => hw⟩
  | ackWait =>
    obtain ⟨hc, he, hw⟩ := decodeAckWait_ok p h
    exact ⟨hc, he, fun _ => hw⟩
  | rom slot =>
    obtain ⟨hc, he, hw⟩ := decodeRom_ok p h
    exact ⟨hc, he, fun _ => hw⟩
  | outbound =>
    obtain ⟨hc, he⟩ := decodeOutbound_ok h
    exact ⟨hc, he, fun hne => absurd rfl hne⟩

/-! ### Fixed words -/

/-- Settles O10: the decoder run on each of the eight words. -/
theorem wordsOfTheSpecDecode : Obligations.WordsOfTheSpecDecode := by
  unfold Obligations.WordsOfTheSpecDecode
  decide

end Sys2Proof
end

section
/-! The refusal of an entry list that is no ROM (U1), and the event reset (R340). -/

namespace Sys2Proof.Machine

/-- Settles O12: the check reads each part of a list, SYNC to ACK, as the part of the ROM it is the entry of, and no other list. -/
theorem illFormedRomIsRefused : Obligations.IllFormedRomIsRefused := romOfEntries?_eq_some

/-- Settles O47: by definition, `hardReset` writes every field of `S` from `resetWith`, and the baud rate is `initBaud` of the
profile. -/
theorem resetRestoresEveryField : Obligations.ResetRestoresEveryField := fun _ => rfl

end Sys2Proof.Machine
end
